-- ==== Sys2Proof/Word.lean ====
section
/-!
DEFINITION. The widths the spec names (00_scope.md rules R8, R9): bytes, bus addresses, transaction words, and the one-bit
VRAM bank number (10_state.md rule R34).
-/

namespace Sys2Proof

/-- `u8` of rule R8: one byte of a store or of the bus. -/
abbrev Byte := BitVec 8

/-- `u16` of rule R8: a bus address. -/
abbrev Addr := BitVec 16

/-- A 32-bit transaction word (30_encoding.md rule R92). -/
abbrev Word := BitVec 32

/-- One of the two VRAM banks (00_scope.md rule R7, `NUM_BANKS`). -/
inductive Bank where
  | bank0
  | bank1
deriving DecidableEq, Repr

/-- `bank_override` of a READ (30_encoding.md rule R90): absent, 0 or 1. -/
abbrev BankOverride := Option Bank

end Sys2Proof
end

