-- ==== Sys2Proof/Config.lean ====
section
/-!
DEFINITION. The configuration of one block instance: the parameters of 00_scope.md rule R7 that are marked OPEN (all but
`INIT_MEM`, which is the contents of memory), as plain data. `State` carries it unchanged (log 1), so a statement about
every state is a statement about every instance.
-/

namespace Sys2Proof

/-- The hardware profile (rule R3). -/
inductive Variant where
  | dmg
  | cgb
deriving DecidableEq, Repr

/-- An RGBA color, a 4-tuple of bytes (rule R12). -/
structure Rgba where
  r : Byte
  g : Byte
  b : Byte
  a : Byte
deriving DecidableEq, Repr

/-- "opaque white" (rule R12). -/
def Rgba.white : Rgba := ⟨255, 255, 255, 255⟩

/-- One preset system color scheme: a color for each shade 0..3 (44_palette.md rule R301). -/
structure Scheme where
  shade0 : Rgba
  shade1 : Rgba
  shade2 : Rgba
  shade3 : Rgba
deriving DecidableEq, Repr

/-- The parameters of rule R7 that differ between instances. The parameters not listed here are numbers the spec fixes. -/
structure Config where
  /-- `VARIANT`. -/
  variant : Variant
  /-- `OAM_LEN`: cycles of ObjectSearch. -/
  oamLen : Nat
  /-- `XFER_LEN`: cycles of PixelTransfer. -/
  xferLen : Nat
  /-- `FRAME_DONE_LINE`: the scanline whose entry reports frame completion (DEDUCED: one of the 154 lines, log 13). -/
  frameDoneLine : Fin 154
  /-- `VBK_READ_HIGH`: bits 7:1 of a `CGB` read of VBK. -/
  vbkReadHigh : Byte
  /-- `CH_EXPAND`: entry `c` is `expand5(c)` (44_palette.md rule R303, log 12). -/
  chExpand : Vector Byte 32
  /-- `SYSPAL`: the color schemes; `NSYSPAL` is the length. -/
  syspal : List Scheme
deriving DecidableEq, Repr

/-- Each channel of a gray color is the same. -/
def Rgba.gray (c : Rgba) : Bool := c.r == c.g && c.g == c.b

/-- Each color of a grayscale scheme is gray. -/
def Scheme.gray (c : Scheme) : Bool :=
  c.shade0.gray && c.shade1.gray && c.shade2.gray && c.shade3.gray

/-- What the spec requires of the parameters: the timing constraint under rule R7 (92 D8); `VBK_READ_HIGH` gives bits 7:1
only (DEDUCED, log 12); `CH_EXPAND` keeps both extremes (rule R303); at least one scheme, scheme 0 being grayscale (rule R301;
DEDUCED that gray means equal channels, log 12). -/
abbrev Config.Valid (c : Config) : Prop :=
  1 ≤ c.oamLen ∧ 1 ≤ c.xferLen ∧ c.oamLen + c.xferLen ≤ 455 ∧ c.vbkReadHigh.getLsbD 0 = false ∧
    c.chExpand[0] = 0 ∧ c.chExpand[31] = 255 ∧ (c.syspal.head?.map Scheme.gray) = some true

/-- The default scheme of rule R301: grayscale. -/
def Scheme.grayscale : Scheme :=
  ⟨⟨255, 255, 255, 255⟩, ⟨170, 170, 170, 255⟩, ⟨85, 85, 85, 255⟩, ⟨0, 0, 0, 255⟩⟩

/-- The default `CH_EXPAND` of rule R303: bit replication, `(c << 3) | (c >> 2)`. -/
def bitReplication : Vector Byte 32 :=
  ⟨((List.range 32).map (fun c => BitVec.ofNat 8 ((c <<< 3) ||| (c >>> 2)))).toArray, by simp⟩

/-- The default parameters of rule R7, on either profile. -/
def Config.default (v : Variant) : Config where
  variant := v
  oamLen := 80
  xferLen := 172
  frameDoneLine := 144
  vbkReadHigh := 0xFE
  chExpand := bitReplication
  syspal := [Scheme.grayscale]

end Sys2Proof
end

