-- ==== Sys2Proof/Syntax.lean ====
section
/-!
DEFINITION. The transactions of the block: the seven kinds of 30_encoding.md rule R90, and the 47 mnemonics of
opcode_table.json (rule R95), one constructor of `Instr` each.
-/

namespace Sys2Proof

/-- The seven transaction kinds of rule R90, which are also the lines of the transaction syntax of rule R100. -/
inductive Transaction where
  /-- `RD addr`, `RD addr, bank=b`. -/
  | read (addr : Addr) (bov : BankOverride)
  /-- `WR addr, value`. -/
  | write (addr : Addr) (data : Byte)
  /-- `UPD n`. -/
  | update (n : Nat)
  /-- `RSL`. -/
  | renderScanline
  /-- `RSC`. -/
  | renderScreen
  /-- `MODE`. -/
  | getMode
  /-- `SYSPAL k`. -/
  | selectSyspal (choice : Nat)
deriving DecidableEq, Repr

/-- The mnemonics of opcode_table.json. A READ keeps its `bov` field even where rule R150 ignores it, so that a word and its
instruction determine each other (DEDUCED, safe, log 8). -/
inductive Instr where
  | rdTile (a : Addr) (bov : BankOverride)
  | wrTile (a : Addr) (v : Byte)
  | rdMap (a : Addr) (bov : BankOverride)
  | wrMap (a : Addr) (v : Byte)
  | rdOam (a : Addr) (bov : BankOverride)
  | wrOam (a : Addr) (v : Byte)
  | rdLcdc (bov : BankOverride)
  | wrLcdc (v : Byte)
  | rdStat (bov : BankOverride)
  | wrStat (v : Byte)
  | rdScy (bov : BankOverride)
  | wrScy (v : Byte)
  | rdScx (bov : BankOverride)
  | wrScx (v : Byte)
  | rdLy (bov : BankOverride)
  | wrLy (v : Byte)
  | rdLyc (bov : BankOverride)
  | wrLyc (v : Byte)
  | rdBgp (bov : BankOverride)
  | wrBgp (v : Byte)
  | rdObp0 (bov : BankOverride)
  | wrObp0 (v : Byte)
  | rdObp1 (bov : BankOverride)
  | wrObp1 (v : Byte)
  | rdWy (bov : BankOverride)
  | wrWy (v : Byte)
  | rdWx (bov : BankOverride)
  | wrWx (v : Byte)
  | rdVbk (bov : BankOverride)
  | wrVbk (v : Byte)
  | rdBgpi (bov : BankOverride)
  | wrBgpi (v : Byte)
  | rdBgpd (bov : BankOverride)
  | wrBgpd (v : Byte)
  | rdObpi (bov : BankOverride)
  | wrObpi (v : Byte)
  | rdObpd (bov : BankOverride)
  | wrObpd (v : Byte)
  | rdIo (a : Addr) (bov : BankOverride)
  | wrIo (a : Addr) (v : Byte)
  | rdUnmapped (a : Addr) (bov : BankOverride)
  | wrUnmapped (a : Addr) (v : Byte)
  | update (n : Nat)
  | renderScanline
  | renderScreen
  | getMode
  | selectSyspal (choice : Nat)
deriving DecidableEq, Repr

end Sys2Proof
end

