-- ==== Sys2Proof/WellFormed.lean ====
section
/-!
DEFINITION. Which terms of `Instr` a transaction word can spell: the operand ranges of 30_encoding.md rules R93 to R96 and
the address ranges of 20_memory.md rule R60.
-/

namespace Sys2Proof

/-- Tile pattern data, 0x8000–0x97FF (rule R60). -/
def Addr.isTile (a : Addr) : Bool := 0x8000 ≤ a.toNat && a.toNat ≤ 0x97FF

/-- Tile maps, 0x9800–0x9FFF (rule R60). -/
def Addr.isMap (a : Addr) : Bool := 0x9800 ≤ a.toNat && a.toNat ≤ 0x9FFF

/-- Object table, 0xFE00–0xFE9F (rule R60). -/
def Addr.isOam (a : Addr) : Bool := 0xFE00 ≤ a.toNat && a.toNat ≤ 0xFE9F

/-- I/O registers, 0xFF00–0xFF7F (rule R60). -/
def Addr.isIo (a : Addr) : Bool := 0xFF00 ≤ a.toNat && a.toNat ≤ 0xFF7F

/-- The named-register addresses of rule R95: 0xFF40–0xFF45, 0xFF47–0xFF4B, 0xFF4F and 0xFF68–0xFF6B. -/
def Addr.isNamed (a : Addr) : Bool :=
  (0xFF40 ≤ a.toNat && a.toNat ≤ 0xFF45) || (0xFF47 ≤ a.toNat && a.toNat ≤ 0xFF4B) || a.toNat == 0xFF4F ||
    (0xFF68 ≤ a.toNat && a.toNat ≤ 0xFF6B)

/-- A plain I/O byte: the I/O range less the named registers (rules R95, R198). -/
def Addr.isPlainIo (a : Addr) : Bool := a.isIo && !a.isNamed

/-- Outside every region of rule R60. -/
def Addr.isUnmapped (a : Addr) : Bool := !a.isTile && !a.isMap && !a.isOam && !a.isIo

/-- The operands are ones a transaction word can spell. UPDATE's `n` has 28 bits in a word (rule R93), SELECT_SYSPAL's
`choice` 8 bits (rule R92). -/
def Instr.wf : Instr → Bool
  | .rdTile a _ => a.isTile
  | .wrTile a _ => a.isTile
  | .rdMap a _ => a.isMap
  | .wrMap a _ => a.isMap
  | .rdOam a _ => a.isOam
  | .wrOam a _ => a.isOam
  | .rdLcdc _ => true
  | .wrLcdc _ => true
  | .rdStat _ => true
  | .wrStat _ => true
  | .rdScy _ => true
  | .wrScy _ => true
  | .rdScx _ => true
  | .wrScx _ => true
  | .rdLy _ => true
  | .wrLy _ => true
  | .rdLyc _ => true
  | .wrLyc _ => true
  | .rdBgp _ => true
  | .wrBgp _ => true
  | .rdObp0 _ => true
  | .wrObp0 _ => true
  | .rdObp1 _ => true
  | .wrObp1 _ => true
  | .rdWy _ => true
  | .wrWy _ => true
  | .rdWx _ => true
  | .wrWx _ => true
  | .rdVbk _ => true
  | .wrVbk _ => true
  | .rdBgpi _ => true
  | .wrBgpi _ => true
  | .rdBgpd _ => true
  | .wrBgpd _ => true
  | .rdObpi _ => true
  | .wrObpi _ => true
  | .rdObpd _ => true
  | .wrObpd _ => true
  | .rdIo a _ => a.isPlainIo
  | .wrIo a _ => a.isPlainIo
  | .rdUnmapped a _ => a.isUnmapped
  | .wrUnmapped a _ => a.isUnmapped
  | .update n => decide (n < 2 ^ 28)
  | .renderScanline => true
  | .renderScreen => true
  | .getMode => true
  | .selectSyspal c => decide (c < 256)

end Sys2Proof
end

