-- ==== Sys2Proof/Decode.lean ====
section
/-!
DEFINITION. The decoder of 30_encoding.md rules R92 to R97, total on every 32-bit word, and the encoder written from the same
field table. A word is read in two stages, as the spec has it: fields into a transaction (R92, R93, R97), then the address
into a mnemonic (R94, R95).
-/

namespace Sys2Proof

/-- Why a word is reserved (rule R97). -/
inductive DecodeError where
  /-- `OP` is 0x0 or 0x8..0xF. -/
  | reservedOp
  /-- a READ with `BOV = 0b01`. -/
  | reservedBov
  /-- a bit outside the format's fields is set. -/
  | reservedBits
deriving DecidableEq, Repr

/-- `word[hi:lo]` for a field of `n` bits at `lo` (rule R9). -/
def field (w : Word) (lo n : Nat) : BitVec n := w.extractLsb' lo n

/-- `BOV`: 00 absent, 10 bank 0, 11 bank 1, 01 reserved (rules R93, R97). -/
def decodeBov (b : BitVec 2) : Option BankOverride :=
  if b = 0b00#2 then some none
  else if b = 0b10#2 then some (some .bank0)
  else if b = 0b11#2 then some (some .bank1)
  else none

/-- The fields of rule R92, less the reserved words of rule R97. -/
def decodeFields (w : Word) : Except DecodeError Transaction :=
  if field w 28 4 = 0x1#4 then
    match decodeBov (field w 26 2) with
    | none => .error .reservedBov
    | some bov => if field w 16 10 = 0#10 then .ok (.read (field w 0 16) bov) else .error .reservedBits
  else if field w 28 4 = 0x2#4 then
    if field w 24 4 = 0#4 then .ok (.write (field w 0 16) (field w 16 8)) else .error .reservedBits
  else if field w 28 4 = 0x3#4 then .ok (.update (field w 0 28).toNat)
  else if field w 28 4 = 0x4#4 then
    if field w 0 28 = 0#28 then .ok .renderScanline else .error .reservedBits
  else if field w 28 4 = 0x5#4 then
    if field w 0 28 = 0#28 then .ok .renderScreen else .error .reservedBits
  else if field w 28 4 = 0x6#4 then
    if field w 0 28 = 0#28 then .ok .getMode else .error .reservedBits
  else if field w 28 4 = 0x7#4 then
    if field w 8 20 = 0#20 then .ok (.selectSyspal (field w 0 8).toNat) else .error .reservedBits
  else .error .reservedOp

/-- A named register of rule R95: its address, its READ mnemonic and its WRITE mnemonic. -/
abbrev NamedRow := Addr × (BankOverride → Instr) × (Byte → Instr)

/-- The named registers of rule R95, 0xFF40 to 0xFF45 and 0xFF47 to 0xFF4B. -/
def lcdRows : List NamedRow :=
  [(0xFF40, .rdLcdc, .wrLcdc), (0xFF41, .rdStat, .wrStat), (0xFF42, .rdScy, .wrScy), (0xFF43, .rdScx, .wrScx),
    (0xFF44, .rdLy, .wrLy), (0xFF45, .rdLyc, .wrLyc), (0xFF47, .rdBgp, .wrBgp), (0xFF48, .rdObp0, .wrObp0),
    (0xFF49, .rdObp1, .wrObp1), (0xFF4A, .rdWy, .wrWy), (0xFF4B, .rdWx, .wrWx)]

/-- The named registers of rule R95 of the color profile, 0xFF4F and 0xFF68 to 0xFF6B. -/
def colorRows : List NamedRow :=
  [(0xFF4F, .rdVbk, .wrVbk), (0xFF68, .rdBgpi, .wrBgpi), (0xFF69, .rdBgpd, .wrBgpd), (0xFF6A, .rdObpi, .wrObpi),
    (0xFF6B, .rdObpd, .wrObpd)]

/-- The named registers of rule R95. -/
def namedRows : List NamedRow := lcdRows ++ colorRows

/-- The row of an address. -/
def findRow : List NamedRow → Addr → Option NamedRow
  | [], _ => none
  | r :: rows, a => if r.1 = a then some r else findRow rows a

/-- The READ column of rule R95, in the order of rule R94: named registers first, then the regions. -/
def readMnemonic (a : Addr) (bov : BankOverride) : Instr :=
  match findRow namedRows a with
  | some r => r.2.1 bov
  | none =>
    if a.isTile then .rdTile a bov
    else if a.isMap then .rdMap a bov
    else if a.isOam then .rdOam a bov
    else if a.isIo then .rdIo a bov
    else .rdUnmapped a bov

/-- The WRITE column of rule R95, in the order of rule R94. -/
def writeMnemonic (a : Addr) (v : Byte) : Instr :=
  match findRow namedRows a with
  | some r => r.2.2 v
  | none =>
    if a.isTile then .wrTile a v
    else if a.isMap then .wrMap a v
    else if a.isOam then .wrOam a v
    else if a.isIo then .wrIo a v
    else .wrUnmapped a v

/-- The mnemonic a transaction is decoded into (rules R94, R95). The choice does not depend on `VARIANT` (rule R99). -/
def Transaction.instr : Transaction → Instr
  | .read a bov => readMnemonic a bov
  | .write a v => writeMnemonic a v
  | .update n => .update n
  | .renderScanline => .renderScanline
  | .renderScreen => .renderScreen
  | .getMode => .getMode
  | .selectSyspal c => .selectSyspal c

/-- Rule R94: the instruction a word spells, or the name of what is reserved in it. -/
def decode (w : Word) : Except DecodeError Instr := (decodeFields w).map Transaction.instr

/-- `BOV` of a bank override (rule R93). -/
def encodeBov : BankOverride → BitVec 2
  | none => 0b00#2
  | some .bank0 => 0b10#2
  | some .bank1 => 0b11#2

/-- The READ row of rule R92. -/
def encodeRead (a : Addr) (bov : BankOverride) : Word := 0x1#4 ++ encodeBov bov ++ 0#10 ++ a

/-- The WRITE row of rule R92. -/
def encodeWrite (a : Addr) (v : Byte) : Word := 0x2#4 ++ 0#4 ++ v ++ a

/-- The transaction of an instruction: rule R95 read from right to left. -/
def Instr.transaction : Instr → Transaction
  | .rdTile a bov => .read a bov
  | .wrTile a v => .write a v
  | .rdMap a bov => .read a bov
  | .wrMap a v => .write a v
  | .rdOam a bov => .read a bov
  | .wrOam a v => .write a v
  | .rdLcdc bov => .read 0xFF40 bov
  | .wrLcdc v => .write 0xFF40 v
  | .rdStat bov => .read 0xFF41 bov
  | .wrStat v => .write 0xFF41 v
  | .rdScy bov => .read 0xFF42 bov
  | .wrScy v => .write 0xFF42 v
  | .rdScx bov => .read 0xFF43 bov
  | .wrScx v => .write 0xFF43 v
  | .rdLy bov => .read 0xFF44 bov
  | .wrLy v => .write 0xFF44 v
  | .rdLyc bov => .read 0xFF45 bov
  | .wrLyc v => .write 0xFF45 v
  | .rdBgp bov => .read 0xFF47 bov
  | .wrBgp v => .write 0xFF47 v
  | .rdObp0 bov => .read 0xFF48 bov
  | .wrObp0 v => .write 0xFF48 v
  | .rdObp1 bov => .read 0xFF49 bov
  | .wrObp1 v => .write 0xFF49 v
  | .rdWy bov => .read 0xFF4A bov
  | .wrWy v => .write 0xFF4A v
  | .rdWx bov => .read 0xFF4B bov
  | .wrWx v => .write 0xFF4B v
  | .rdVbk bov => .read 0xFF4F bov
  | .wrVbk v => .write 0xFF4F v
  | .rdBgpi bov => .read 0xFF68 bov
  | .wrBgpi v => .write 0xFF68 v
  | .rdBgpd bov => .read 0xFF69 bov
  | .wrBgpd v => .write 0xFF69 v
  | .rdObpi bov => .read 0xFF6A bov
  | .wrObpi v => .write 0xFF6A v
  | .rdObpd bov => .read 0xFF6B bov
  | .wrObpd v => .write 0xFF6B v
  | .rdIo a bov => .read a bov
  | .wrIo a v => .write a v
  | .rdUnmapped a bov => .read a bov
  | .wrUnmapped a v => .write a v
  | .update n => .update n
  | .renderScanline => .renderScanline
  | .renderScreen => .renderScreen
  | .getMode => .getMode
  | .selectSyspal c => .selectSyspal c

/-- The word of a transaction (rule R92). No word spells an UPDATE of `n ≥ 2^28` or a SELECT_SYSPAL of `choice ≥ 256` (rule R93);
there the field is the operand's low bits, so the word is that of another transaction (DESIGN CHOICE, unsafe there, log 15).
`Instr.wf` of its instruction says that the word spells it. -/
def Transaction.word : Transaction → Word
  | .read a bov => encodeRead a bov
  | .write a v => encodeWrite a v
  | .update n => 0x3#4 ++ BitVec.ofNat 28 n
  | .renderScanline => 0x4#4 ++ 0#28
  | .renderScreen => 0x5#4 ++ 0#28
  | .getMode => 0x6#4 ++ 0#28
  | .selectSyspal c => 0x7#4 ++ 0#20 ++ BitVec.ofNat 8 c

/-- The word of a well-formed instruction; for any other, what `Transaction.word` says (log 15). -/
def encode (i : Instr) : Word := i.transaction.word

/-- `mask` and `match` of an instruction's row of opcode_table.json (rule R96). The reserved value of `BOV` is outside the
mask, as the rule says. -/
def Instr.tableRow : Instr → Word × Word
  | .rdTile .. | .rdMap .. | .rdOam .. | .rdIo .. | .rdUnmapped .. => (0xF3FF0000, 0x10000000)
  | .wrTile .. | .wrMap .. | .wrOam .. | .wrIo .. | .wrUnmapped .. => (0xFF000000, 0x20000000)
  | .rdLcdc _ => (0xF3FFFFFF, 0x1000FF40)
  | .wrLcdc _ => (0xFF00FFFF, 0x2000FF40)
  | .rdStat _ => (0xF3FFFFFF, 0x1000FF41)
  | .wrStat _ => (0xFF00FFFF, 0x2000FF41)
  | .rdScy _ => (0xF3FFFFFF, 0x1000FF42)
  | .wrScy _ => (0xFF00FFFF, 0x2000FF42)
  | .rdScx _ => (0xF3FFFFFF, 0x1000FF43)
  | .wrScx _ => (0xFF00FFFF, 0x2000FF43)
  | .rdLy _ => (0xF3FFFFFF, 0x1000FF44)
  | .wrLy _ => (0xFF00FFFF, 0x2000FF44)
  | .rdLyc _ => (0xF3FFFFFF, 0x1000FF45)
  | .wrLyc _ => (0xFF00FFFF, 0x2000FF45)
  | .rdBgp _ => (0xF3FFFFFF, 0x1000FF47)
  | .wrBgp _ => (0xFF00FFFF, 0x2000FF47)
  | .rdObp0 _ => (0xF3FFFFFF, 0x1000FF48)
  | .wrObp0 _ => (0xFF00FFFF, 0x2000FF48)
  | .rdObp1 _ => (0xF3FFFFFF, 0x1000FF49)
  | .wrObp1 _ => (0xFF00FFFF, 0x2000FF49)
  | .rdWy _ => (0xF3FFFFFF, 0x1000FF4A)
  | .wrWy _ => (0xFF00FFFF, 0x2000FF4A)
  | .rdWx _ => (0xF3FFFFFF, 0x1000FF4B)
  | .wrWx _ => (0xFF00FFFF, 0x2000FF4B)
  | .rdVbk _ => (0xF3FFFFFF, 0x1000FF4F)
  | .wrVbk _ => (0xFF00FFFF, 0x2000FF4F)
  | .rdBgpi _ => (0xF3FFFFFF, 0x1000FF68)
  | .wrBgpi _ => (0xFF00FFFF, 0x2000FF68)
  | .rdBgpd _ => (0xF3FFFFFF, 0x1000FF69)
  | .wrBgpd _ => (0xFF00FFFF, 0x2000FF69)
  | .rdObpi _ => (0xF3FFFFFF, 0x1000FF6A)
  | .wrObpi _ => (0xFF00FFFF, 0x2000FF6A)
  | .rdObpd _ => (0xF3FFFFFF, 0x1000FF6B)
  | .wrObpd _ => (0xFF00FFFF, 0x2000FF6B)
  | .update _ => (0xF0000000, 0x30000000)
  | .renderScanline => (0xFFFFFFFF, 0x40000000)
  | .renderScreen => (0xFFFFFFFF, 0x50000000)
  | .getMode => (0xFFFFFFFF, 0x60000000)
  | .selectSyspal _ => (0xFFFFFF00, 0x70000000)

/-- The transaction word whose low `nbits` bits are those of `w` and whose bits above them are 0. A transaction is one 32-bit
word presented whole, so there is no byte order to lay out (DEDUCED, safe, log 11). -/
def tableWord (nbits w : Nat) : Word := BitVec.ofNat 32 (w % 2 ^ nbits)

/-- The instruction the decoder reads from an opcode-table word of `nbits` bits; nothing where the word is reserved or does
not fit a transaction word. -/
def decodeTableWord (nbits w : Nat) : Option Instr :=
  if nbits ≤ 32 then (decode (tableWord nbits w)).toOption else none

end Sys2Proof
end

