-- ==== Sys2Proof/Machine/State.lean ====
section
/-!
DEFINITION. The state of the block as plain data: the elements of 10_state.md rule R20, one field each, then the model's own
three fields (`cfg`, `pending`, `response`; logs 1, 4, 5), the reasons a step can stop, and the state after reset
(70_reset_and_hazards.md rule R360).
-/

namespace Sys2Proof.Machine

/-- The four display modes (10_state.md rule R43). -/
inductive Mode where
  | hBlank
  | vBlank
  | objectSearch
  | pixelTransfer
deriving DecidableEq, Repr

/-- The one fault reason of the block (60_exceptions.md rule R331), recorded in `State.fault`. -/
inductive Fault where
  /-- `DmgNonZeroBank(addr)`, code 1. RECORDED by RD_TILE and RD_MAP (and by WR_TILE and WR_MAP in states no run reaches) on
  `DMG` when the effective VRAM bank is not 0. No meaning ANSWERS a fault outcome: the contract violation is a next state with
  this reason in `State.fault`, from which every step is refused (rule R330; DESIGN CHOICE, log 6). Safe: the model stops where the spec does. -/
  | dmgNonZeroBank (addr : Addr)
deriving DecidableEq, Repr

/-- The refusals of the model (60_exceptions.md rule R333), none of which is a behaviour of the hardware. -/
inductive Refusal where
  /-- Answered by no arm of `exec`: every instruction has its meaning. Safe. -/
  | notModelled (mnemonic : String)
  /-- Answered by `step` on a reserved word (30_encoding.md rule R97). Safe: the word spells no transaction. -/
  | reservedWord (why : DecodeError)
  /-- Answered by SELECT_SYSPAL when `choice ≥ NSYSPAL` (44_palette.md rule R305). Safe: the choice has no meaning. -/
  | noSuchScheme (choice : Nat)
  /-- Answered by every `step` after a fault (60_exceptions.md rule R330). Safe: the block has no further step. -/
  | blockFaulted (reason : Fault)
deriving DecidableEq, Repr

/-- One internal memory: the bytes that differ from what an unlisted offset reads as, by strictly rising offset. -/
abbrev Memory := List Host.Cell

/-- The named internal memories of 00_scope.md rule R10, and the frame buffer. -/
inductive Region where
  | tile (b : Bank)
  | map (b : Bank)
  | oam
  | bgpram
  | obpram
  | io
  | fb
deriving DecidableEq, Repr

/-- The step result of UPDATE (30_encoding.md rule R91). -/
structure StepResult where
  line : Fin 154
  mode : BitVec 2
  lineAdvanced : Bool
  frameCompleted : Bool
deriving DecidableEq, Repr

/-- The outputs of a transaction (30_encoding.md rule R90). -/
inductive Response where
  /-- no output: WRITE, RENDER_SCANLINE, SELECT_SYSPAL, and a transaction that faulted. -/
  | none
  /-- `rdata` of a READ. -/
  | byte (v : Byte)
  /-- `(step, irq)` of UPDATE. -/
  | update (step : StepResult) (irq : Bool)
  /-- `frame` of RENDER_SCREEN, held as the frame buffer is (an unlisted byte is 0xFF). -/
  | frame (pixels : Memory)
  /-- `mode` of GET_MODE. -/
  | mode (id : BitVec 2)
deriving DecidableEq, Repr

/-- The state of one block instance. -/
structure State where
  /-- the instance's configuration; no step changes it (DESIGN CHOICE, safe, log 1). -/
  cfg : Config
  /-- `IO[0..127]`, the named registers among them (10_state.md rules R20, R21, R23). -/
  io : Memory
  /-- `DOT`. -/
  dot : Fin 456
  /-- `LINE`. -/
  line : Fin 154
  /-- `MODE`. -/
  mode : Mode
  /-- `VRAM_BANK` (rule R34). -/
  vramBank : Bank
  /-- `TILE[0]` (rule R37). -/
  tile0 : Memory
  /-- `TILE[1]` (rule R37). -/
  tile1 : Memory
  /-- `MAP[0]` (rule R38). -/
  map0 : Memory
  /-- `MAP[1]` (rule R38). -/
  map1 : Memory
  /-- `OAM` (rule R39). -/
  oam : Memory
  /-- `BGPRAM` (rule R40). -/
  bgpram : Memory
  /-- `OBPRAM` (rule R40). -/
  obpram : Memory
  /-- `WIN_LINE` (rule R46). -/
  winLine : Option Nat
  /-- `FB` (rule R41). -/
  fb : Memory
  /-- `SYSPAL_SEL` (rule R42). -/
  syspalSel : Nat
  /-- `FAULT` (rule R20; 60_exceptions.md rule R330). -/
  fault : Option Fault
  /-- the transaction words presented by the driver and not yet taken, the next one first (DESIGN CHOICE, log 4). -/
  pending : List Word
  /-- what the last transaction answered (DESIGN CHOICE, safe, log 5). -/
  response : Response
deriving DecidableEq, Repr

/-- `INIT_MEM` (00_scope.md rule R7): the contents of the memories at reset, any values. -/
structure InitMem where
  tile0 : Memory
  tile1 : Memory
  map0 : Memory
  map1 : Memory
  oam : Memory
  bgpram : Memory
  obpram : Memory
deriving DecidableEq, Repr

/-- The `INIT_MEM` of the test vectors (95_test_vectors.md §0): every byte 0x00. DESIGN CHOICE, unsafe (log 3). -/
def InitMem.zero : InitMem := ⟨[], [], [], [], [], [], []⟩

/-- 70_reset_and_hazards.md rule R360: a new instance with configuration `c` and memory contents `m`. Every `IO` byte is 0x00
but STAT, which is 0x02; every byte of `FB` is 0xFF. -/
def State.create (c : Config) (m : InitMem) : State where
  cfg := c
  io := [(0x41, 0x02)]
  dot := 0
  line := 0
  mode := .objectSearch
  vramBank := .bank0
  tile0 := m.tile0
  tile1 := m.tile1
  map0 := m.map0
  map1 := m.map1
  oam := m.oam
  bgpram := m.bgpram
  obpram := m.obpram
  winLine := none
  fb := []
  syspalSel := 0
  fault := none
  pending := []
  response := .none

/-- The machine right after reset: rule R360 for the DMG instance with the default parameters of rule R7 (DESIGN CHOICE,
unsafe, log 2) and `INIT_MEM` all 0x00 (log 3). -/
def State.reset : State := State.create (Config.default .dmg) InitMem.zero

end Sys2Proof.Machine
end

