-- ==== Sys2Proof/Machine/Ops.lean ====
section
/-!
DEFINITION. The named operations over memory and registers: `MemRead` and `MemWrite` of 00_scope.md rule R10, the bytes of
`IO`, the frame buffer's pixels and rows (10_state.md rule R41), the answer of a transaction, and the fault outcome
(60_exceptions.md rule R330), which is the block's only exception; there is no return from it (rule R338).
-/

namespace Sys2Proof.Machine

/-- What a meaning answers. -/
abbrev Result := Host.Outcome State Fault Refusal

/-- What an unlisted offset reads as: 0xFF in the frame buffer, whose reset pixels are `WHITE` (10_state.md rule R41); 0x00 in
`IO` (rule R23) and in the memories `INIT_MEM` fills (DESIGN CHOICE there, log 3). -/
def Region.unlisted : Region → Byte
  | .fb => 0xFF
  | _ => 0x00

/-- The number of bytes of a region (10_state.md rule R20). -/
def Region.size : Region → Nat
  | .tile _ => 6144
  | .map _ => 2048
  | .oam => 160
  | .bgpram => 64
  | .obpram => 64
  | .io => 128
  | .fb => 92160

/-- The byte at offset `a` of a memory whose unlisted bytes are `d`. -/
def Memory.read (d : Byte) : Memory → Nat → Byte
  | [], _ => d
  | c :: m, a => if c.1 = a then c.2 else Memory.read d m a

/-- The listed cells of `vs` laid out from offset `a`: those that differ from `d`. -/
def Memory.cells (d : Byte) : Nat → List Byte → Memory
  | _, [] => []
  | a, v :: vs => if v = d then Memory.cells d (a + 1) vs else (a, v) :: Memory.cells d (a + 1) vs

/-- Store the bytes `vs` from offset `base` on. A byte equal to `d` is not listed, so equal memories are equal lists. -/
def Memory.writeBlock (d : Byte) (m : Memory) (base : Nat) (vs : List Byte) : Memory :=
  m.filter (fun c => decide (c.1 < base)) ++
    (Memory.cells d base vs ++ m.filter (fun c => decide (base + vs.length ≤ c.1)))

/-- Store one byte. -/
def Memory.write (d : Byte) (m : Memory) (a : Nat) (v : Byte) : Memory := Memory.writeBlock d m a [v]

/-- The canonical form of a memory of `n` bytes whose unlisted bytes are `d`: offsets strictly rising and below `n`, no byte
listed that an unlisted one would read as. -/
abbrev Memory.wf (d : Byte) (n : Nat) (m : Memory) : Prop :=
  m.Pairwise (fun c e => c.1 < e.1) ∧ ∀ c ∈ m, c.1 < n ∧ c.2 ≠ d

/-- The memory behind a region. -/
def State.region (s : State) : Region → Memory
  | .tile .bank0 => s.tile0
  | .tile .bank1 => s.tile1
  | .map .bank0 => s.map0
  | .map .bank1 => s.map1
  | .oam => s.oam
  | .bgpram => s.bgpram
  | .obpram => s.obpram
  | .io => s.io
  | .fb => s.fb

/-- The state with another memory behind a region. -/
def State.setRegion (s : State) (r : Region) (m : Memory) : State :=
  match r with
  | .tile .bank0 => { s with tile0 := m }
  | .tile .bank1 => { s with tile1 := m }
  | .map .bank0 => { s with map0 := m }
  | .map .bank1 => { s with map1 := m }
  | .oam => { s with oam := m }
  | .bgpram => { s with bgpram := m }
  | .obpram => { s with obpram := m }
  | .io => { s with io := m }
  | .fb => { s with fb := m }

/-- `MemRead(region, index)` of rule R10. -/
def State.memRead (s : State) (r : Region) (i : Nat) : Byte := Memory.read r.unlisted (s.region r) i

/-- `MemWrite(region, index, v)` of rule R10. -/
def State.memWrite (s : State) (r : Region) (i : Nat) (v : Byte) : State :=
  s.setRegion r (Memory.write r.unlisted (s.region r) i v)

/-- `IO[i]` (10_state.md rule R21). -/
def State.ioByte (s : State) (i : Nat) : Byte := s.memRead .io i

/-- `IO[i] <- v`. -/
def State.setIo (s : State) (i : Nat) (v : Byte) : State := s.memWrite .io i v

/-- Pixel `(x, y)` of `FB` (10_state.md rule R41). -/
def State.pixel (s : State) (x y : Nat) : Rgba :=
  ⟨s.memRead .fb (4 * (160 * y + x)), s.memRead .fb (4 * (160 * y + x) + 1),
    s.memRead .fb (4 * (160 * y + x) + 2), s.memRead .fb (4 * (160 * y + x) + 3)⟩

/-- The bytes of a pixel in the order r, g, b, a (rule R41). -/
def rgbaBytes (c : Rgba) : List Byte := [c.r, c.g, c.b, c.a]

/-- Row `y` of `FB` becomes `row` (43_sprites.md rule R275, the last loop). -/
def State.setRow (s : State) (y : Nat) (row : List Rgba) : State :=
  s.setRegion .fb (Memory.writeBlock Region.fb.unlisted s.fb (4 * (160 * y)) (row.flatMap rgbaBytes))

/-! ## One update per register -/

/-- The answer becomes `r`. -/
def State.setResponse (s : State) (r : Response) : State := { s with response := r }

/-- `FAULT <- f`. -/
def State.setFault (s : State) (f : Option Fault) : State := { s with fault := f }

/-- `VRAM_BANK <- b`. -/
def State.setVramBank (s : State) (b : Bank) : State := { s with vramBank := b }

/-- `WIN_LINE <- n`. -/
def State.setWinLine (s : State) (n : Option Nat) : State := { s with winLine := n }

/-- `SYSPAL_SEL <- n`. -/
def State.setSyspalSel (s : State) (n : Nat) : State := { s with syspalSel := n }

/-- `DOT`, `LINE` and `MODE`, which only a state machine step changes, together (40_mode_fsm.md rule R131). -/
def State.setFsm (s : State) (d : Fin 456) (l : Fin 154) (m : Mode) : State := { s with dot := d, line := l, mode := m }

/-- The words still presented become `ws`. -/
def State.setPending (s : State) (ws : List Word) : State := { s with pending := ws }

/-- The transaction ends and answers `r`. -/
def State.answer (s : State) (r : Response) : Result := .next (s.setResponse r)

/-- The common READ of a byte of a region: answer it, change nothing else. -/
def readByte (r : Region) (i : Nat) (s : State) : Result := s.answer (.byte (s.memRead r i))

/-- The common WRITE of a byte of a region: store it, answer nothing. -/
def writeByte (r : Region) (i : Nat) (v : Byte) (s : State) : Result := (s.memWrite r i v).answer .none

/-- `raise Fault(reason)`: the fault outcome of 60_exceptions.md rule R330. The transaction makes no state change of its own
and returns no value; `FAULT` records the reason (DESIGN CHOICE, log 6). -/
def raiseFault (f : Fault) (s : State) : Result := (s.setFault (some f)).answer .none

end Sys2Proof.Machine
end

