-- ==== Sys2Proof/Machine/Operands.lean ====
section
/-!
DEFINITION. The operand forms: the effective VRAM bank of a bus access (20_memory.md rule R64), the split of a bus address
into an offset (rules R65 to R68), and the fields of the registers and of the bytes the stores hold (10_state.md rules R24,
R25, R32, R35; 30_encoding.md rules R103, R105, R106).
-/

namespace Sys2Proof.Machine

/-- The bank number of one bit. -/
def bankOfBit (b : Bool) : Bank := if b then .bank1 else .bank0

/-- The bit of a bank number. -/
def bankBit : Bank → BitVec 1
  | .bank0 => 0#1
  | .bank1 => 1#1

/-- `eff_bank` of rule R64; a WRITE carries no override. -/
def effBank (s : State) (bov : BankOverride) : Bank := bov.getD s.vramBank

/-- Rule R64: a VRAM access through its effective bank, or the contract violation. -/
def withVram (a : Addr) (bov : BankOverride) (s : State) (access : Bank → Result) : Result :=
  if s.cfg.variant = .dmg ∧ effBank s bov ≠ .bank0 then raiseFault (.dmgNonZeroBank a) s else access (effBank s bov)

/-- Offset of a tile pattern address (rule R65). On an address outside its region, which no decoded transaction has, an offset is
only a total function (DESIGN CHOICE, log 9). -/
def tileOffset (a : Addr) : Nat := a.toNat - 0x8000

/-- Offset of a tile map address (rule R66). -/
def mapOffset (a : Addr) : Nat := a.toNat - 0x9800

/-- Offset of an object table address (rule R67). -/
def oamOffset (a : Addr) : Nat := a.toNat - 0xFE00

/-- Offset of an I/O address (rule R68). -/
def ioOffset (a : Addr) : Nat := a.toNat - 0xFF00

/-! ## Fields of the registers -/

/-- LCDC bit 7 (rule R24). -/
def State.lcdEn (s : State) : Bool := (s.ioByte 0x40).getLsbD 7
/-- LCDC bit 6: the window's map table. -/
def State.winMap (s : State) : Bool := (s.ioByte 0x40).getLsbD 6
/-- LCDC bit 5. -/
def State.winEn (s : State) : Bool := (s.ioByte 0x40).getLsbD 5
/-- LCDC bit 4: 1 makes background and window tile indices unsigned. -/
def State.tileSel (s : State) : Bool := (s.ioByte 0x40).getLsbD 4
/-- LCDC bit 3: the background's map table. -/
def State.bgMap (s : State) : Bool := (s.ioByte 0x40).getLsbD 3
/-- LCDC bit 2: 1 makes sprites 16 pixels tall. -/
def State.objSize (s : State) : Bool := (s.ioByte 0x40).getLsbD 2
/-- LCDC bit 1. -/
def State.objEn (s : State) : Bool := (s.ioByte 0x40).getLsbD 1
/-- LCDC bit 0. -/
def State.bgEn (s : State) : Bool := (s.ioByte 0x40).getLsbD 0

/-- STAT (rule R25). -/
def State.stat (s : State) : Byte := s.ioByte 0x41
/-- SCY (rule R27). -/
def State.scy (s : State) : Nat := (s.ioByte 0x42).toNat
/-- SCX (rule R27). -/
def State.scx (s : State) : Nat := (s.ioByte 0x43).toNat
/-- LY (rule R28). -/
def State.ly (s : State) : Byte := s.ioByte 0x44
/-- LYC (rule R29). -/
def State.lyc (s : State) : Byte := s.ioByte 0x45
/-- WY (rule R32). -/
def State.wy (s : State) : Nat := (s.ioByte 0x4A).toNat
/-- `max(WX - 7, 0)`, the window's left screen column (rule R32). -/
def State.wx0 (s : State) : Nat := (s.ioByte 0x4B).toNat - 7

/-- `INDEX`, bits 5:0 of BGPI or OBPI (rule R35). -/
def palIndex (p : Byte) : Nat := (p.extractLsb' 0 6).toNat

/-- `AUTO_INC`, bit 7 of BGPI or OBPI (rule R35). -/
def palAutoInc (p : Byte) : Bool := p.getLsbD 7

/-- The index register after one access of its data register: with `AUTO_INC`, `INDEX` advances modulo 64 and bits 7:6 are
kept (41_bus_access.md rules R192, R193, R196, R197). -/
def palAdvance (p : Byte) : Byte :=
  if palAutoInc p then p.extractLsb' 6 2 ++ (p.extractLsb' 0 6 + 1#6) else p

/-! ## Map cell metadata (30_encoding.md rule R103) -/

/-- `BG_PRIO`, bit 7. -/
def metaPrio (m : Byte) : Bool := m.getLsbD 7
/-- `YFLIP`, bit 6. -/
def metaYFlip (m : Byte) : Bool := m.getLsbD 6
/-- `XFLIP`, bit 5. -/
def metaXFlip (m : Byte) : Bool := m.getLsbD 5
/-- `BANK`, bit 3. -/
def metaBank (m : Byte) : Bank := bankOfBit (m.getLsbD 3)
/-- `PAL`, bits 2:0. -/
def metaPal (m : Byte) : Nat := (m.extractLsb' 0 3).toNat

/-! ## Sprite entries (30_encoding.md rules R105, R106) -/

/-- Sprite `index` of the object table: its four bytes. -/
structure Sprite where
  index : Nat
  y : Byte
  x : Byte
  tile : Byte
  attr : Byte
deriving DecidableEq, Repr

/-- Sprite `i` is `OAM[4i .. 4i+3]` (rule R105). -/
def State.sprite (s : State) (i : Nat) : Sprite :=
  ⟨i, s.memRead .oam (4 * i), s.memRead .oam (4 * i + 1), s.memRead .oam (4 * i + 2), s.memRead .oam (4 * i + 3)⟩

/-- `BEHIND`, bit 7 of `ATTR` (rule R106). -/
def attrBehind (a : Byte) : Bool := a.getLsbD 7
/-- `YFLIP`, bit 6. -/
def attrYFlip (a : Byte) : Bool := a.getLsbD 6
/-- `XFLIP`, bit 5. -/
def attrXFlip (a : Byte) : Bool := a.getLsbD 5
/-- `DMG_PAL`, bit 4. -/
def attrDmgPal (a : Byte) : Bool := a.getLsbD 4
/-- `BANK`, bit 3. -/
def attrBank (a : Byte) : Bank := bankOfBit (a.getLsbD 3)
/-- `CGB_PAL`, bits 2:0. -/
def attrCgbPal (a : Byte) : Nat := (a.extractLsb' 0 3).toNat

end Sys2Proof.Machine
end

