-- ==== Sys2Proof/Machine/Flags.lean ====
section
/-!
DEFINITION. The status flags of the block (10_state.md rules R25, R26) and the two interrupt conditions (40_mode_fsm.md rules
R136, R137).
-/

namespace Sys2Proof.Machine

/-- `id(mode)` (40_mode_fsm.md rule R130). -/
def modeId : Mode → BitVec 2
  | .hBlank => 0#2
  | .vBlank => 1#2
  | .objectSearch => 2#2
  | .pixelTransfer => 3#2

/-- `STAT.MODE <- id(m)`: bits 1:0 (rule R138). -/
def statSetMode (stat : Byte) (m : Mode) : Byte := stat.extractLsb' 2 6 ++ modeId m

/-- `STAT.LYC_EQ <- b`: bit 2 (rule R136). -/
def statSetLycEq (stat : Byte) (b : Bool) : Byte :=
  stat.extractLsb' 3 5 ++ BitVec.ofBool b ++ stat.extractLsb' 0 2

/-- What a bus write of `v` leaves in STAT: bits 7:3 of `v`, bits 2:0 kept (41_bus_access.md rule R169). -/
def statBusWrite (stat v : Byte) : Byte := (v &&& 0xF8) ||| (stat &&& 0x07)

/-- `LYC_IE` (rule R25). -/
def lycIe (stat : Byte) : Bool := stat.getLsbD 6
/-- `OAM_IE`. -/
def oamIe (stat : Byte) : Bool := stat.getLsbD 5
/-- `VBL_IE`. -/
def vblIe (stat : Byte) : Bool := stat.getLsbD 4
/-- `HBL_IE`. -/
def hblIe (stat : Byte) : Bool := stat.getLsbD 3
/-- `LYC_EQ`. -/
def lycEq (stat : Byte) : Bool := stat.getLsbD 2

/-- The enable of the interrupt on entering a mode; entering PixelTransfer has none (rule R137). -/
def modeIe (stat : Byte) : Mode → Bool
  | .hBlank => hblIe stat
  | .vBlank => vblIe stat
  | .objectSearch => oamIe stat
  | .pixelTransfer => false

/-- The mode-change interrupt condition (rule R137). -/
def modeIrq (stat : Byte) (old new : Mode) : Bool := decide (new ≠ old) && modeIe stat new

end Sys2Proof.Machine
end

