-- ==== Sys2Proof/Machine/Fsm.lean ====
section
/-!
DEFINITION. The ppu_mode_fsm and the scanline_counter, and the commands UPDATE and GET_MODE (40_mode_fsm.md).
-/

namespace Sys2Proof.Machine

/-- `mode_of(line, dot)` (rule R130). -/
def modeOf (c : Config) (line : Fin 154) (dot : Fin 456) : Mode :=
  if 144 ≤ line.val then .vBlank
  else if dot.val < c.oamLen then .objectSearch
  else if dot.val < c.oamLen + c.xferLen then .pixelTransfer
  else .hBlank

/-- `k`, the number of line boundaries a step of `n` cycles crosses (rule R131). -/
def linesCrossed (s : State) (n : Nat) : Nat := (s.dot.val + n) / 456

/-- `DOT` after a step (rule R131, closed form). -/
def nextDot (s : State) (n : Nat) : Fin 456 := Fin.ofNat 456 (s.dot.val + n)

/-- `LINE` after a step (rule R131, closed form). -/
def nextLine (s : State) (n : Nat) : Fin 154 := Fin.ofNat 154 (s.line.val + linesCrossed s n)

/-- "Frame completed" (rule R133): the step crosses into `FRAME_DONE_LINE`, which from `LINE` is boundary number
`(FRAME_DONE_LINE - LINE - 1) mod 154 + 1` (DEDUCED, safe, log 7). -/
def frameCompleted (s : State) (n : Nat) : Bool :=
  decide ((s.cfg.frameDoneLine.val + 153 - s.line.val) % 154 < linesCrossed s n)

/-- The state after `fsm_step(n)` (rule R131). -/
def fsmAdvance (s : State) (n : Nat) : State :=
  s.setFsm (nextDot s n) (nextLine s n) (modeOf s.cfg (nextLine s n) (nextDot s n))

/-- The `StepResult` of `fsm_step(n)` (rules R131 to R133). -/
def fsmResult (s : State) (n : Nat) : StepResult :=
  ⟨nextLine s n, modeId (modeOf s.cfg (nextLine s n) (nextDot s n)), decide (1 ≤ linesCrossed s n), frameCompleted s n⟩

/-- The byte LY takes from a line. -/
def lineByte (line : Fin 154) : Byte := BitVec.ofNat 8 line.val

/-- `scanline_update` (rule R136), its effect on the state, `s` being the state after the step. The coincidence flag is
recomputed only when LY changes, and only LY changing to 0 clears `WIN_LINE`. -/
def scanlineUpdate (s : State) : State :=
  if lineByte s.line = s.ly then s
  else
    ((s.setIo 0x44 (lineByte s.line)).setIo 0x41 (statSetLycEq s.stat (lineByte s.line == s.lyc))).setWinLine
      (if lineByte s.line = 0 then none else s.winLine)

/-- `lyc_irq` (rule R136), `s` being the state after the step. -/
def lycIrq (s : State) : Bool :=
  decide (lineByte s.line ≠ s.ly) && (lineByte s.line == s.lyc) && lycIe s.stat

/-- UPDATE (rule R139). -/
def execUpdate (n : Nat) (s : State) : Result :=
  let stepped := fsmAdvance s n
  let scanned := scanlineUpdate stepped
  let irq := lycIrq stepped || modeIrq scanned.stat s.mode stepped.mode
  (scanned.setIo 0x41 (statSetMode scanned.stat stepped.mode)).answer (.update (fsmResult s n) irq)

/-- GET_MODE (rule R140). -/
def execGetMode (s : State) : Result := s.answer (.mode (modeId s.mode))

end Sys2Proof.Machine
end

