-- ==== Sys2Proof/Machine/Io.lean ====
section
/-!
DEFINITION. Plain I/O bytes and unmapped space (41_bus_access.md §11). 0xFF46 (DMA) is a plain byte (10_state.md rule R30).
-/

namespace Sys2Proof.Machine

/-- RD_IO (rule R198). -/
def execRdIo (a : Addr) (_bov : BankOverride) (s : State) : Result := readByte .io (ioOffset a) s

/-- WR_IO (rule R199). -/
def execWrIo (a : Addr) (v : Byte) (s : State) : Result := writeByte .io (ioOffset a) v s

/-- RD_UNMAPPED (rule R200): 0. -/
def execRdUnmapped (_a : Addr) (_bov : BankOverride) (s : State) : Result := s.answer (.byte 0x00)

/-- WR_UNMAPPED (rule R201): nothing. -/
def execWrUnmapped (_a : Addr) (_v : Byte) (s : State) : Result := s.answer .none

end Sys2Proof.Machine
end

