-- ==== Sys2Proof/Machine/Lcd.lean ====
section
/-!
DEFINITION. Display control and status, scroll, line, coincidence and window position registers (41_bus_access.md §5, §6, §8).
A READ ignores the bank override (rule R150).
-/

namespace Sys2Proof.Machine

/-- RD_LCDC (rule R166). -/
def execRdLcdc (_bov : BankOverride) (s : State) : Result := readByte .io 0x40 s

/-- WR_LCDC (rule R167). -/
def execWrLcdc (v : Byte) (s : State) : Result := writeByte .io 0x40 v s

/-- RD_STAT (rule R168). -/
def execRdStat (_bov : BankOverride) (s : State) : Result := readByte .io 0x41 s

/-- WR_STAT (rule R169): the flags keep their values (rule R151). -/
def execWrStat (v : Byte) (s : State) : Result := writeByte .io 0x41 (statBusWrite s.stat v) s

/-- RD_SCY (rule R170). -/
def execRdScy (_bov : BankOverride) (s : State) : Result := readByte .io 0x42 s

/-- WR_SCY (rule R171). -/
def execWrScy (v : Byte) (s : State) : Result := writeByte .io 0x42 v s

/-- RD_SCX (rule R172). -/
def execRdScx (_bov : BankOverride) (s : State) : Result := readByte .io 0x43 s

/-- WR_SCX (rule R173). -/
def execWrScx (v : Byte) (s : State) : Result := writeByte .io 0x43 v s

/-- RD_LY (rule R174). -/
def execRdLy (_bov : BankOverride) (s : State) : Result := readByte .io 0x44 s

/-- WR_LY (rule R175): ignored. -/
def execWrLy (_v : Byte) (s : State) : Result := s.answer .none

/-- RD_LYC (rule R176). -/
def execRdLyc (_bov : BankOverride) (s : State) : Result := readByte .io 0x45 s

/-- WR_LYC (rule R177): the coincidence flag is not recomputed. -/
def execWrLyc (v : Byte) (s : State) : Result := writeByte .io 0x45 v s

/-- RD_WY (rule R184). -/
def execRdWy (_bov : BankOverride) (s : State) : Result := readByte .io 0x4A s

/-- WR_WY (rule R185). -/
def execWrWy (v : Byte) (s : State) : Result := writeByte .io 0x4A v s

/-- RD_WX (rule R186): the raw value. -/
def execRdWx (_bov : BankOverride) (s : State) : Result := readByte .io 0x4B s

/-- WR_WX (rule R187). -/
def execWrWx (v : Byte) (s : State) : Result := writeByte .io 0x4B v s

end Sys2Proof.Machine
end

