-- ==== Sys2Proof/Machine/Oam.lean ====
section
/-!
DEFINITION. The sprite_store (41_bus_access.md §4). No access is refused for the mode (20_memory.md rule R75).
-/

namespace Sys2Proof.Machine

/-- RD_OAM (rule R164); the override is ignored (rule R150). -/
def execRdOam (a : Addr) (_bov : BankOverride) (s : State) : Result := readByte .oam (oamOffset a) s

/-- WR_OAM (rule R165). -/
def execWrOam (a : Addr) (v : Byte) (s : State) : Result := writeByte .oam (oamOffset a) v s

end Sys2Proof.Machine
end

