-- ==== Sys2Proof/Machine/Palette.lean ====
section
/-!
DEFINITION. The palette_lut: the monochrome and color lookups (44_palette.md), the monochrome palette registers and the color
palette accessors (41_bus_access.md §7, §10), and SELECT_SYSPAL (44_palette.md rule R305).
-/

namespace Sys2Proof.Machine

/-- The color a scheme gives a shade (rule R301). -/
def schemeColor (c : Scheme) (shade : BitVec 2) : Rgba :=
  if shade = 0#2 then c.shade0 else if shade = 1#2 then c.shade1 else if shade = 2#2 then c.shade2 else c.shade3

/-- `SYSPAL[SYSPAL_SEL]`. A selection outside the table, which no run reaches, reads as the default scheme (DESIGN CHOICE,
unsafe in those states only, log 10). -/
def State.scheme (s : State) : Scheme := s.cfg.syspal.getD s.syspalSel Scheme.grayscale

/-- Field `ci` of a monochrome palette register: bits `2ci+1 : 2ci` (10_state.md rule R31). -/
def paletteShade (p : Byte) (ci : BitVec 2) : BitVec 2 := p.extractLsb' (2 * ci.toNat) 2

/-- `dmg_color` (rule R300). -/
def dmgColor (s : State) (p : Byte) (ci : BitVec 2) : Rgba := schemeColor s.scheme (paletteShade p ci)

/-- `expand5` (rule R303): the instance's `CH_EXPAND`. -/
def expand5 (c : Config) (ch : BitVec 5) : Byte := c.chExpand[ch.toNat]'(ch.isLt)

/-- `w` of rule R302: the little-endian pair at `8p + 2ci` (20_memory.md rule R69). -/
def paletteEntry (s : State) (ram : Region) (p : Nat) (ci : BitVec 2) : BitVec 16 :=
  s.memRead ram (8 * p + 2 * ci.toNat + 1) ++ s.memRead ram (8 * p + 2 * ci.toNat)

/-- The RGB555 fields of an entry, expanded and opaque (30_encoding.md rule R107, rule R302); bit 15 has no function. -/
def entryColor (c : Config) (w : BitVec 16) : Rgba :=
  ⟨expand5 c (w.extractLsb' 0 5), expand5 c (w.extractLsb' 5 5), expand5 c (w.extractLsb' 10 5), 255⟩

/-- `cgb_color` (rule R302). -/
def cgbColor (s : State) (ram : Region) (p : Nat) (ci : BitVec 2) : Rgba := entryColor s.cfg (paletteEntry s ram p ci)

/-- RD_BGP (rule R178). -/
def execRdBgp (_bov : BankOverride) (s : State) : Result := readByte .io 0x47 s

/-- WR_BGP (rule R179). -/
def execWrBgp (v : Byte) (s : State) : Result := writeByte .io 0x47 v s

/-- RD_OBP0 (rule R180). -/
def execRdObp0 (_bov : BankOverride) (s : State) : Result := readByte .io 0x48 s

/-- WR_OBP0 (rule R181). -/
def execWrObp0 (v : Byte) (s : State) : Result := writeByte .io 0x48 v s

/-- RD_OBP1 (rule R182). -/
def execRdObp1 (_bov : BankOverride) (s : State) : Result := readByte .io 0x49 s

/-- WR_OBP1 (rule R183). -/
def execWrObp1 (v : Byte) (s : State) : Result := writeByte .io 0x49 v s

/-- RD_BGPI (rule R190): the whole byte. -/
def execRdBgpi (_bov : BankOverride) (s : State) : Result := readByte .io 0x68 s

/-- WR_BGPI (rule R191). -/
def execWrBgpi (v : Byte) (s : State) : Result := writeByte .io 0x68 v s

/-- A palette data READ on `CGB`: the byte at `INDEX`, and the index register after the access (rules R192, R196). -/
def readPalette (ram : Region) (index : Nat) (s : State) : Result :=
  (s.setIo index (palAdvance (s.ioByte index))).answer (.byte (s.memRead ram (palIndex (s.ioByte index))))

/-- A palette data WRITE on `CGB` (rules R193, R197). -/
def writePalette (ram : Region) (index : Nat) (v : Byte) (s : State) : Result :=
  ((s.memWrite ram (palIndex (s.ioByte index)) v).setIo index (palAdvance (s.ioByte index))).answer .none

/-- RD_BGPD (rule R192). -/
def execRdBgpd (_bov : BankOverride) (s : State) : Result :=
  match s.cfg.variant with
  | .cgb => readPalette .bgpram 0x68 s
  | .dmg => readByte .io 0x69 s

/-- WR_BGPD (rule R193); no write is suppressed (90_conflicts.md C5). -/
def execWrBgpd (v : Byte) (s : State) : Result :=
  match s.cfg.variant with
  | .cgb => writePalette .bgpram 0x68 v s
  | .dmg => writeByte .io 0x69 v s

/-- RD_OBPI (rule R194). -/
def execRdObpi (_bov : BankOverride) (s : State) : Result := readByte .io 0x6A s

/-- WR_OBPI (rule R195). -/
def execWrObpi (v : Byte) (s : State) : Result := writeByte .io 0x6A v s

/-- RD_OBPD (rule R196). -/
def execRdObpd (_bov : BankOverride) (s : State) : Result :=
  match s.cfg.variant with
  | .cgb => readPalette .obpram 0x6A s
  | .dmg => readByte .io 0x6B s

/-- WR_OBPD (rule R197). -/
def execWrObpd (v : Byte) (s : State) : Result :=
  match s.cfg.variant with
  | .cgb => writePalette .obpram 0x6A v s
  | .dmg => writeByte .io 0x6B v s

/-- SELECT_SYSPAL (rule R305): accepted on both profiles; a choice with no scheme has no meaning and is refused. -/
def execSelectSyspal (choice : Nat) (s : State) : Result :=
  if s.cfg.syspal.length ≤ choice then .refused (.noSuchScheme choice)
  else (s.setSyspalSel choice).answer .none

end Sys2Proof.Machine
end

