-- ==== Sys2Proof/Machine/Background.lean ====
section
/-!
DEFINITION. The background_compositor (42_background.md): what the background and window layers leave under every column of a
row, and the window's internal line.
-/

namespace Sys2Proof.Machine

/-- What the line buffers hold at one column (rule R230): `bg_ci`, `row`, `bg_prio`. -/
structure LayerPixel where
  ci : BitVec 2
  color : Rgba
  prio : Bool
deriving DecidableEq, Repr

/-- The initial line buffers (rule R230). -/
def LayerPixel.blank : LayerPixel := ⟨0#2, Rgba.white, false⟩

/-- `tile_pixel(bank, t, r, c)` (30_encoding.md rule R102): bit `7 - c` of the two planes of row `r`. -/
def tilePixel (s : State) (bank : Bank) (t r c : Nat) : BitVec 2 :=
  BitVec.ofBool ((s.memRead (.tile bank) (16 * t + 2 * r + 1)).getLsbD (7 - c)) ++
    BitVec.ofBool ((s.memRead (.tile bank) (16 * t + 2 * r)).getLsbD (7 - c))

/-- `bg_tile(idx)` (30_encoding.md rule R104). -/
def bgTile (s : State) (idx : Byte) : Nat := if s.tileSel then idx.toNat else (256 + idx.toInt).toNat

/-- The offset of map table `m`'s cell that holds map-space pixel `(px, py)` (rule R232). -/
def cellOffset (m : Bool) (px py : Nat) : Nat := 1024 * m.toNat + 32 * (py / 8) + px / 8

/-- `7 - i` when flipped. -/
def flip7 (flip : Bool) (i : Nat) : Nat := if flip then 7 - i else i

/-- `layer_pixel(m, px, py)` (rule R232). -/
def layerPixel (s : State) (m : Bool) (px py : Nat) : LayerPixel :=
  let idx := s.memRead (.map .bank0) (cellOffset m px py)
  match s.cfg.variant with
  | .cgb =>
    let cell := s.memRead (.map .bank1) (cellOffset m px py)
    let ci := tilePixel s (metaBank cell) (bgTile s idx) (flip7 (metaYFlip cell) (py % 8)) (flip7 (metaXFlip cell) (px % 8))
    ⟨ci, cgbColor s .bgpram (metaPal cell) ci, metaPrio cell⟩
  | .dmg =>
    let ci := tilePixel s .bank0 (bgTile s idx) (py % 8) (px % 8)
    ⟨ci, dmgColor s (s.ioByte 0x47) ci, false⟩

/-- The background layer is drawn on `CGB` always, on `DMG` when `LCDC.BG_EN` is 1 (rule R234). -/
def bgDrawn (s : State) : Bool := decide (s.cfg.variant = .cgb) || s.bgEn

/-- The background at column `x` of row `y` (rules R231, R233, R235). -/
def bgPixel (s : State) (y x : Nat) : LayerPixel :=
  layerPixel s s.bgMap ((x + s.scx) % 256) ((y + s.scy) % 256)

/-- The window is not skipped on row `y` (rule R236). -/
def windowDrawn (s : State) (y : Nat) : Bool := s.winEn && decide (s.wy ≤ y) && decide (s.wx0 < 160)

/-- `win_y`, the window's internal line on row `y` (rule R237). -/
def winY (s : State) (y : Nat) : Nat :=
  match s.winLine with
  | some n => n + 1
  | none => y - s.wy

/-- The window at column `x` of row `y` (rules R238, R239). -/
def winPixel (s : State) (y x : Nat) : LayerPixel := layerPixel s s.winMap (x - s.wx0) (winY s y % 256)

/-- The line buffers at column `x` of row `y` after the background and window layers (rules R230, R235, R238). -/
def underPixel (s : State) (y x : Nat) : LayerPixel :=
  if windowDrawn s y && decide (s.wx0 ≤ x) then winPixel s y x
  else if bgDrawn s then bgPixel s y x
  else LayerPixel.blank

/-- `WIN_LINE` after row `y` (rules R238, R240). -/
def nextWinLine (s : State) (y : Nat) : Option Nat := if windowDrawn s y then some (winY s y) else s.winLine

end Sys2Proof.Machine
end

