-- ==== Sys2Proof/Machine/Sprites.lean ====
section
/-!
DEFINITION. The sprite_compositor and the pixel_priority_arbiter (43_sprites.md §1 to §3).
-/

namespace Sys2Proof.Machine

/-- `h`, the height of every sprite (rule R260). -/
def spriteHeight (s : State) : Nat := if s.objSize then 16 else 8

/-- `sy`, a sprite's top row (rule R261). -/
def spriteTop (sp : Sprite) : Int := (sp.y.toNat : Int) - 16

/-- `sx`, a sprite's left column (rule R261). -/
def spriteLeft (sp : Sprite) : Int := (sp.x.toNat : Int) - 8

/-- The sprite qualifies on row `y` (rule R262). -/
def qualifies (s : State) (y : Nat) (sp : Sprite) : Bool :=
  decide (spriteTop sp ≤ y) && decide ((y : Int) < spriteTop sp + spriteHeight s) &&
    decide (-8 < spriteLeft sp) && decide (spriteLeft sp < 160)

/-- Sprite `a` has higher priority than sprite `b` (rule R263). -/
def before (a b : Sprite) : Bool :=
  decide (a.x.toNat < b.x.toNat) || (decide (a.x = b.x) && decide (a.index < b.index))

/-- Insert a sprite in priority order. -/
def insertSprite (a : Sprite) : List Sprite → List Sprite
  | [] => [a]
  | b :: l => if before a b then a :: b :: l else b :: insertSprite a l

/-- Sprites in the priority order of rule R263. -/
def sortSprites (l : List Sprite) : List Sprite := l.foldr insertSprite []

/-- The 40 entries of the object table (rule R105). -/
def allSprites (s : State) : List Sprite := (List.range 40).map s.sprite

/-- `Q`: the qualifying sprites in priority order (rule R264). -/
def qualifying (s : State) (y : Nat) : List Sprite := sortSprites ((allSprites s).filter (qualifies s y))

/-- `D`: the drawn set, capped at 10 on `DMG` (rule R264). -/
def drawnSprites (s : State) (y : Nat) : List Sprite :=
  match s.cfg.variant with
  | .dmg => (qualifying s y).take 10
  | .cgb => qualifying s y

/-- The row inside a sprite, after the vertical flip (rule R265). -/
def spriteRow (s : State) (y : Nat) (sp : Sprite) : Nat :=
  let r := ((y : Int) - spriteTop sp).toNat
  if attrYFlip sp.attr then spriteHeight s - 1 - r else r

/-- The tile number of a sprite on row `y` (rule R265): for 16-row sprites the low bit chooses the half, after the flip. -/
def spriteTile (s : State) (y : Nat) (sp : Sprite) : Nat :=
  if s.objSize then
    (if spriteRow s y sp < 8 then sp.tile &&& 0xFE else sp.tile ||| 0x01).toNat
  else sp.tile.toNat

/-- The tile bank of a sprite (rule R265). -/
def spriteBank (s : State) (sp : Sprite) : Bank :=
  match s.cfg.variant with
  | .cgb => attrBank sp.attr
  | .dmg => .bank0

/-- Column `x` lies in the sprite's eight columns (rule R266). -/
def spriteSpans (sp : Sprite) (x : Nat) : Bool := decide (spriteLeft sp ≤ x) && decide ((x : Int) < spriteLeft sp + 8)

/-- `ci`, the color index of a sprite at column `x` of row `y` (rule R266). -/
def spriteCi (s : State) (y : Nat) (sp : Sprite) (x : Nat) : BitVec 2 :=
  tilePixel s (spriteBank s sp) (spriteTile s y sp) (spriteRow s y sp % 8)
    (flip7 (attrXFlip sp.attr) ((x : Int) - spriteLeft sp).toNat)

/-- `sprite_color(s, ci)` (rule R267). -/
def spriteColor (s : State) (sp : Sprite) (ci : BitVec 2) : Rgba :=
  match s.cfg.variant with
  | .cgb => cgbColor s .obpram (attrCgbPal sp.attr) ci
  | .dmg => dmgColor s (if attrDmgPal sp.attr then s.ioByte 0x49 else s.ioByte 0x48) ci

/-- The sprite covers column `x` opaquely (rule R269). -/
def covers (s : State) (y : Nat) (sp : Sprite) (x : Nat) : Bool := spriteSpans sp x && decide (spriteCi s y sp x ≠ 0#2)

/-- `pass(s, x)`, sprite against background (rule R270), `under` being the line buffers at the column. -/
def passes (s : State) (sp : Sprite) (under : LayerPixel) : Bool :=
  if s.cfg.variant = .cgb ∧ s.bgEn = false then true
  else if s.cfg.variant = .cgb ∧ under.prio = true then false
  else !attrBehind sp.attr || decide (under.ci = 0#2)

/-- The first sprite of a list in priority order whose pixel is shown at column `x` (rules R271, R272). -/
def shownSprite (s : State) (y : Nat) (drawn : List Sprite) (under : LayerPixel) (x : Nat) : Option Sprite :=
  drawn.find? (fun sp => covers s y sp x && passes s sp under)

/-- The sprites the layer draws on row `y`: none when `LCDC.OBJ_EN` is 0 (rule R260). -/
def layerSprites (s : State) (y : Nat) : List Sprite := if s.objEn then drawnSprites s y else []

/-- `row[x]` after all three layers (rule R272), `drawn` being the sprites the layer draws. -/
def composedPixel (s : State) (y : Nat) (drawn : List Sprite) (x : Nat) : Rgba :=
  match shownSprite s y drawn (underPixel s y x) x with
  | some sp => spriteColor s sp (spriteCi s y sp x)
  | none => (underPixel s y x).color

end Sys2Proof.Machine
end

