-- ==== Sys2Proof/Machine/Render.lean ====
section
/-!
DEFINITION. The render commands (43_sprites.md §4).
-/

namespace Sys2Proof.Machine

/-- The composed row `y` (rule R275). -/
def composedRow (s : State) (y : Nat) : List Rgba :=
  let drawn := layerSprites s y
  (List.range 160).map (composedPixel s y drawn)

/-- RENDER_SCANLINE (rule R275): the row `y = LY` into `FB`, and `WIN_LINE` when the window draws; nothing on lines 144 and up. -/
def execRenderScanline (s : State) : Result :=
  if 144 ≤ s.ly.toNat then s.answer .none
  else ((s.setRow s.ly.toNat (composedRow s s.ly.toNat)).setWinLine (nextWinLine s s.ly.toNat)).answer .none

/-- RENDER_SCREEN (rule R276): a copy of `FB`, or an all-white frame when `LCDC.LCD_EN` is 0 (every byte unlisted, so 0xFF). -/
def execRenderScreen (s : State) : Result := s.answer (.frame (if s.lcdEn then s.fb else []))

end Sys2Proof.Machine
end

