-- ==== Sys2Proof/Machine/Vram.lean ====
section
/-!
DEFINITION. The tile_store and the map store (41_bus_access.md §2, §3) and the VRAM bank select register (§9).
-/

namespace Sys2Proof.Machine

/-- RD_TILE (rule R160). -/
def execRdTile (a : Addr) (bov : BankOverride) (s : State) : Result :=
  withVram a bov s (fun bank => readByte (.tile bank) (tileOffset a) s)

/-- WR_TILE (rule R161). -/
def execWrTile (a : Addr) (v : Byte) (s : State) : Result :=
  withVram a none s (fun bank => writeByte (.tile bank) (tileOffset a) v s)

/-- RD_MAP (rule R162). -/
def execRdMap (a : Addr) (bov : BankOverride) (s : State) : Result :=
  withVram a bov s (fun bank => readByte (.map bank) (mapOffset a) s)

/-- WR_MAP (rule R163). -/
def execWrMap (a : Addr) (v : Byte) (s : State) : Result :=
  withVram a none s (fun bank => writeByte (.map bank) (mapOffset a) v s)

/-- RD_VBK (rule R188): on `CGB` bits 7:1 are `VBK_READ_HIGH` and bit 0 is `VRAM_BANK`; on `DMG` a plain byte. -/
def execRdVbk (_bov : BankOverride) (s : State) : Result :=
  match s.cfg.variant with
  | .cgb => s.answer (.byte (s.cfg.vbkReadHigh ||| (bankBit s.vramBank).setWidth 8))
  | .dmg => readByte .io 0x4F s

/-- WR_VBK (rule R189): on `CGB` bit 0 selects the bank; on `DMG` a plain byte that selects nothing (90_conflicts.md C2). -/
def execWrVbk (v : Byte) (s : State) : Result :=
  match s.cfg.variant with
  | .cgb => (s.setVramBank (bankOfBit (v.getLsbD 0))).answer .none
  | .dmg => writeByte .io 0x4F v s

end Sys2Proof.Machine
end

