-- ==== Sys2Proof/Machine/Dispatch.lean ====
section
/-!
DEFINITION. The meaning of every transaction mnemonic, one arm each. It is total on terms that no word spells (DESIGN CHOICE,
log 9); the refusals after a fault and of reserved words are `fetch`'s.
-/

namespace Sys2Proof.Machine

def exec (i : Instr) (s : State) : Host.Outcome State Fault Refusal :=
  match i with
  | .rdTile a bov => Sys2Proof.Machine.execRdTile a bov s
  | .wrTile a v => Sys2Proof.Machine.execWrTile a v s
  | .rdMap a bov => Sys2Proof.Machine.execRdMap a bov s
  | .wrMap a v => Sys2Proof.Machine.execWrMap a v s
  | .rdOam a bov => Sys2Proof.Machine.execRdOam a bov s
  | .wrOam a v => Sys2Proof.Machine.execWrOam a v s
  | .rdLcdc bov => Sys2Proof.Machine.execRdLcdc bov s
  | .wrLcdc v => Sys2Proof.Machine.execWrLcdc v s
  | .rdStat bov => Sys2Proof.Machine.execRdStat bov s
  | .wrStat v => Sys2Proof.Machine.execWrStat v s
  | .rdScy bov => Sys2Proof.Machine.execRdScy bov s
  | .wrScy v => Sys2Proof.Machine.execWrScy v s
  | .rdScx bov => Sys2Proof.Machine.execRdScx bov s
  | .wrScx v => Sys2Proof.Machine.execWrScx v s
  | .rdLy bov => Sys2Proof.Machine.execRdLy bov s
  | .wrLy v => Sys2Proof.Machine.execWrLy v s
  | .rdLyc bov => Sys2Proof.Machine.execRdLyc bov s
  | .wrLyc v => Sys2Proof.Machine.execWrLyc v s
  | .rdBgp bov => Sys2Proof.Machine.execRdBgp bov s
  | .wrBgp v => Sys2Proof.Machine.execWrBgp v s
  | .rdObp0 bov => Sys2Proof.Machine.execRdObp0 bov s
  | .wrObp0 v => Sys2Proof.Machine.execWrObp0 v s
  | .rdObp1 bov => Sys2Proof.Machine.execRdObp1 bov s
  | .wrObp1 v => Sys2Proof.Machine.execWrObp1 v s
  | .rdWy bov => Sys2Proof.Machine.execRdWy bov s
  | .wrWy v => Sys2Proof.Machine.execWrWy v s
  | .rdWx bov => Sys2Proof.Machine.execRdWx bov s
  | .wrWx v => Sys2Proof.Machine.execWrWx v s
  | .rdVbk bov => Sys2Proof.Machine.execRdVbk bov s
  | .wrVbk v => Sys2Proof.Machine.execWrVbk v s
  | .rdBgpi bov => Sys2Proof.Machine.execRdBgpi bov s
  | .wrBgpi v => Sys2Proof.Machine.execWrBgpi v s
  | .rdBgpd bov => Sys2Proof.Machine.execRdBgpd bov s
  | .wrBgpd v => Sys2Proof.Machine.execWrBgpd v s
  | .rdObpi bov => Sys2Proof.Machine.execRdObpi bov s
  | .wrObpi v => Sys2Proof.Machine.execWrObpi v s
  | .rdObpd bov => Sys2Proof.Machine.execRdObpd bov s
  | .wrObpd v => Sys2Proof.Machine.execWrObpd v s
  | .rdIo a bov => Sys2Proof.Machine.execRdIo a bov s
  | .wrIo a v => Sys2Proof.Machine.execWrIo a v s
  | .rdUnmapped a bov => Sys2Proof.Machine.execRdUnmapped a bov s
  | .wrUnmapped a v => Sys2Proof.Machine.execWrUnmapped a v s
  | .update n => Sys2Proof.Machine.execUpdate n s
  | .renderScanline => Sys2Proof.Machine.execRenderScanline s
  | .renderScreen => Sys2Proof.Machine.execRenderScreen s
  | .getMode => Sys2Proof.Machine.execGetMode s
  | .selectSyspal choice => Sys2Proof.Machine.execSelectSyspal choice s

end Sys2Proof.Machine
end

