-- ==== Sys2Proof/Machine/Fetch.lean ====
section
/-!
DEFINITION. Taking the next transaction the driver presents (10_state.md rule R44, 30_encoding.md rules R94, R97,
60_exceptions.md rule R330).
-/

namespace Sys2Proof.Machine

/-- What the block does next. -/
inductive Fetched where
  /-- no transaction is presented: nothing happens (DESIGN CHOICE, log 4). -/
  | idle
  /-- the step is refused. -/
  | refuse (why : Refusal)
  /-- the transaction is taken: its instruction, and the state with it taken. -/
  | run (i : Instr) (s : State)
deriving DecidableEq, Repr

/-- The next transaction: after a fault there is no further step (rule R330); else it is refused when its word is reserved (rule
R97), else decoded. -/
def fetch (s : State) : Fetched :=
  match s.fault with
  | some f => .refuse (.blockFaulted f)
  | none =>
    match s.pending with
    | [] => .idle
    | w :: rest =>
      match decode w with
      | .error e => .refuse (.reservedWord e)
      | .ok i => .run i (s.setPending rest)

end Sys2Proof.Machine
end

