-- ==== Sys2Proof/Machine/Step.lean ====
section
/-!
DEFINITION. One step of the block: one transaction, in the order presented (20_memory.md rule R76).
-/

namespace Sys2Proof.Machine

/-- One step: take the next transaction and run it to completion (00_scope.md rule R11). -/
def step (s : State) : Host.Outcome State Fault Refusal :=
  match fetch s with
  | .idle => .next s
  | .refuse why => .refused why
  | .run i s' => exec i s'

/-- `s` with the transaction word of an opcode-table row presented next, before whatever was already pending. -/
def State.withFetchWord (s : State) (nbits w : Nat) : State := s.setPending (tableWord nbits w :: s.pending)

end Sys2Proof.Machine
end

