-- ==== Sys2Proof/Machine/Pseudo.lean ====
section
/-!
DEFINITION. The pseudo-transactions of 30_encoding.md rule R101, each expanded into the transactions it stands for, and
presenting transactions to the block.
-/

namespace Sys2Proof.Machine

/-- `LINE`: `UPD 456`. -/
def pseudoLine : List Transaction := [.update 456]

/-- `FRAME`: `UPD 70224`. -/
def pseudoFrame : List Transaction := [.update 70224]

/-- The index value `0x80 | (8p + 2c)`, for a palette `p` in 0..7 and a color `c` in 0..3; beyond them it wraps (log 15). -/
def paletteIndexByte (p c : Nat) : Byte := 0x80 ||| BitVec.ofNat 8 (8 * p + 2 * c)

/-- `BGCOL p, c, rgb555`. -/
def pseudoBgcol (p c : Nat) (rgb : BitVec 16) : List Transaction :=
  [.write 0xFF68 (paletteIndexByte p c), .write 0xFF69 (rgb.extractLsb' 0 8), .write 0xFF69 (rgb.extractLsb' 8 8)]

/-- `OBCOL p, c, rgb555`. -/
def pseudoObcol (p c : Nat) (rgb : BitVec 16) : List Transaction :=
  [.write 0xFF6A (paletteIndexByte p c), .write 0xFF6B (rgb.extractLsb' 0 8), .write 0xFF6B (rgb.extractLsb' 8 8)]

/-- `SPRITE s, y, x, tile, attr`, for a sprite `s` in 0..39; beyond them the addresses are no sprite's, and wrap (log 15). -/
def pseudoSprite (n : Nat) (y x tile attr : Byte) : List Transaction :=
  [.write (BitVec.ofNat 16 (0xFE00 + 4 * n)) y, .write (BitVec.ofNat 16 (0xFE01 + 4 * n)) x,
    .write (BitVec.ofNat 16 (0xFE02 + 4 * n)) tile, .write (BitVec.ofNat 16 (0xFE03 + 4 * n)) attr]

/-- The driver presents transactions, after those already presented (20_memory.md rule R76). A transaction that no word spells is
presented as the one its wrapped word spells (DESIGN CHOICE, unsafe there, log 15). -/
def State.present (s : State) (ts : List Transaction) : State := s.setPending (s.pending ++ ts.map Transaction.word)

end Sys2Proof.Machine
end

