-- ==== Sys2Proof/Safety.lean ====
section
/-!
DEFINITION. What counts as a safe run, and the vocabulary of the statements: what two states share, what one store changes,
and the invariant of the block.
-/

namespace Sys2Proof.Machine

/-- A state a run may end in (60_exceptions.md rule R330: no state with `FAULT` set is final). -/
abbrev State.Safe (s : State) : Prop := s.fault = none

/-- The registers outside the memories, and the words still presented, are the same. -/
def SameRegisters (s t : State) : Prop :=
  t.cfg = s.cfg ∧ t.dot = s.dot ∧ t.line = s.line ∧ t.mode = s.mode ∧ t.vramBank = s.vramBank ∧ t.winLine = s.winLine ∧
    t.syspalSel = s.syspalSel ∧ t.fault = s.fault ∧ t.pending = s.pending

/-- Every byte of every region, `IO` and `FB` among them, is the same. -/
def SameBytes (s t : State) : Prop := ∀ r i, t.memRead r i = s.memRead r i

/-- Every byte but byte `i` of region `r` is the same. -/
def SameBytesBut (s t : State) (r : Region) (i : Nat) : Prop := ∀ r' i', ¬(r' = r ∧ i' = i) → t.memRead r' i' = s.memRead r' i'

/-- The transaction answered `resp` and changed nothing of the block. -/
def Answers (s t : State) (resp : Response) : Prop := t.response = resp ∧ SameRegisters s t ∧ SameBytes s t

/-- The transaction stored `v` in byte `i` of region `r`, answered nothing and changed nothing else. -/
def Stores (s t : State) (r : Region) (i : Nat) (v : Byte) : Prop :=
  t.response = .none ∧ t.memRead r i = v ∧ SameRegisters s t ∧ SameBytesBut s t r i

/-- The invariant of the block: the configuration is one the spec allows; every memory is in canonical form and inside its
region; `MODE` is derived from the position (10_state.md rule R43); LY is `LINE` (rule R45); STAT bits 1:0 are the mode id
(40_mode_fsm.md rule R138); `VRAM_BANK` is 0 on `DMG` (10_state.md rule R34); the selected scheme exists (rule R20); the bytes
of `IO` that `CGB` does not use keep their reset value (rules R33, R36). -/
structure State.Inv (s : State) : Prop where
  cfgValid : s.cfg.Valid
  memories : ∀ r, Memory.wf r.unlisted r.size (s.region r)
  modeDerived : s.mode = modeOf s.cfg s.line s.dot
  lyIsLine : s.ly = lineByte s.line
  statMode : s.stat.extractLsb' 0 2 = modeId s.mode
  dmgBank : s.cfg.variant = .dmg → s.vramBank = .bank0
  schemeExists : s.syspalSel < s.cfg.syspal.length
  cgbUnused : s.cfg.variant = .cgb → s.ioByte 0x4F = 0 ∧ s.ioByte 0x69 = 0 ∧ s.ioByte 0x6B = 0

/-- `INIT_MEM` in canonical form, each memory inside its region. -/
def InitMem.wf (m : InitMem) : Prop :=
  Memory.wf 0 6144 m.tile0 ∧ Memory.wf 0 6144 m.tile1 ∧ Memory.wf 0 2048 m.map0 ∧ Memory.wf 0 2048 m.map1 ∧
    Memory.wf 0 160 m.oam ∧ Memory.wf 0 64 m.bgpram ∧ Memory.wf 0 64 m.obpram

end Sys2Proof.Machine
end

