-- ==== Sys2Proof/Certificates/Slice0/Obligations.lean ====
section
/-!
DEFINITION. The statements for the provers, each citing the rule of spec/ it formalises. A statement about an instruction has
as its conclusion that `exec` answers a next state, with the answer, what changed and what did not; `Answers` and `Stores`
(Safety.lean) hold the frame: every other register, every other byte of every memory, the words still presented.
-/

open Sys2Proof Sys2Proof.Machine

/-! ## Vocabulary of the statements: instructions -/

namespace Sys2Proof

/-- The instruction is a bus READ (30_encoding.md rule R95). -/
def Instr.isRead : Instr → Bool
  | .rdTile .. | .rdMap .. | .rdOam .. | .rdLcdc _ | .rdStat _ | .rdScy _ | .rdScx _ | .rdLy _ | .rdLyc _ | .rdBgp _
  | .rdObp0 _ | .rdObp1 _ | .rdWy _ | .rdWx _ | .rdVbk _ | .rdBgpi _ | .rdBgpd _ | .rdObpi _ | .rdObpd _ | .rdIo ..
  | .rdUnmapped .. => true
  | _ => false

/-- The instruction is a bus WRITE (30_encoding.md rule R95). -/
def Instr.isWrite : Instr → Bool
  | .wrTile .. | .wrMap .. | .wrOam .. | .wrLcdc _ | .wrStat _ | .wrScy _ | .wrScx _ | .wrLy _ | .wrLyc _ | .wrBgp _
  | .wrObp0 _ | .wrObp1 _ | .wrWy _ | .wrWx _ | .wrVbk _ | .wrBgpi _ | .wrBgpd _ | .wrObpi _ | .wrObpd _ | .wrIo ..
  | .wrUnmapped .. => true
  | _ => false

end Sys2Proof

namespace Sys2Proof.Machine

/-! ## Vocabulary of the statements: words, addresses, registers, rows -/

/-- The word is reserved, as 30_encoding.md rule R97 lists it. -/
def ReservedWord (w : Word) : Prop :=
  let op := w.toNat / 2 ^ 28
  op = 0 ∨ 8 ≤ op ∨
    (op = 1 ∧ (w.toNat / 2 ^ 26 % 4 = 1 ∨ w.toNat / 2 ^ 16 % 2 ^ 10 ≠ 0)) ∨
    (op = 2 ∧ w.toNat / 2 ^ 24 % 16 ≠ 0) ∨
    ((op = 4 ∨ op = 5 ∨ op = 6) ∧ w.toNat % 2 ^ 28 ≠ 0) ∨
    (op = 7 ∧ w.toNat / 2 ^ 8 % 2 ^ 20 ≠ 0)

/-- The bus address an instruction accesses through a VRAM bank, and the bank (20_memory.md rule R64); none for any other. -/
def vramAccess (s : State) : Instr → Option (Addr × Bank)
  | .rdTile a bov | .rdMap a bov => some (a, bov.getD s.vramBank)
  | .wrTile a _ | .wrMap a _ => some (a, s.vramBank)
  | _ => none

/-- The contract violation of rule R64 at address `a`. -/
def Violates (s : State) (i : Instr) (a : Addr) : Prop := s.cfg.variant = .dmg ∧ vramAccess s i = some (a, .bank1)

/-- Every READ of the named register `IO[k]` answers the byte and changes nothing; its word matches the register's row. -/
def ReadsRegister (mk : BankOverride → Instr) (k : Nat) : Prop :=
  ∀ bov s, encode (mk bov) &&& 0xF3FFFFFF#32 = BitVec.ofNat 32 (0x1000FF00 + k) ∧
    ∃ t, exec (mk bov) s = .next t ∧ Answers s t (.byte (s.ioByte k))

/-- Every WRITE of the named register `IO[k]` stores the byte and changes nothing else; its word matches the register's row. -/
def WritesRegister (mk : Byte → Instr) (k : Nat) : Prop :=
  ∀ v s, encode (mk v) &&& 0xFF00FFFF#32 = BitVec.ofNat 32 (0x2000FF00 + k) ∧
    ∃ t, exec (mk v) s = .next t ∧ Stores s t .io k v

/-- The loop of `fsm_step` (40_mode_fsm.md rule R131) on `(d, LINE, adv, fdone)`, at most `fuel` times round. -/
def fsmLoop (frameDone : Nat) : Nat → Nat → Nat → Bool → Bool → Nat × Nat × Bool × Bool
  | 0, d, line, adv, fdone => (d, line, adv, fdone)
  | fuel + 1, d, line, adv, fdone =>
    if 456 ≤ d then
      fsmLoop frameDone fuel (d - 456) ((line + 1) % 154) true (fdone || decide ((line + 1) % 154 = frameDone))
    else (d, line, adv, fdone)

/-- `BGPI` or `OBPI` after an access of its data register (41_bus_access.md rules R192, R193): with bit 7 set the low six bits
advance modulo 64, bits 7:6 stay. -/
def AdvancedIndex (p q : Byte) : Prop :=
  q.toNat = if 128 ≤ p.toNat then p.toNat / 64 * 64 + (p.toNat % 64 + 1) % 64 else p.toNat

/-- What a palette data READ at index register `IO[k]` leaves: the index register advanced, all else the same. Its word matches
the row of the data register, `IO[k + 1]`. -/
def ReadsPalette (mk : BankOverride → Instr) (ram : Region) (k : Nat) : Prop :=
  ∀ bov s, s.cfg.variant = .cgb → encode (mk bov) &&& 0xF3FFFFFF#32 = BitVec.ofNat 32 (0x1000FF00 + (k + 1)) ∧
    ∃ t, exec (mk bov) s = .next t ∧
    t.response = .byte (s.memRead ram ((s.ioByte k).toNat % 64)) ∧ AdvancedIndex (s.ioByte k) (t.ioByte k) ∧
    SameRegisters s t ∧ SameBytesBut s t .io k

/-- What a palette data WRITE at index register `IO[k]` leaves: the byte, the index register advanced, all else the same. -/
def WritesPalette (mk : Byte → Instr) (ram : Region) (k : Nat) : Prop :=
  ∀ v s, s.cfg.variant = .cgb → encode (mk v) &&& 0xFF00FFFF#32 = BitVec.ofNat 32 (0x2000FF00 + (k + 1)) ∧
    ∃ t, exec (mk v) s = .next t ∧ t.response = .none ∧
    t.memRead ram ((s.ioByte k).toNat % 64) = v ∧ AdvancedIndex (s.ioByte k) (t.ioByte k) ∧ SameRegisters s t ∧
    ∀ r j, ¬(r = ram ∧ j = (s.ioByte k).toNat % 64) → ¬(r = .io ∧ j = k) → t.memRead r j = s.memRead r j

/-- The instruction's address is one whose byte is plain storage (20_memory.md rule R74), for the state's profile. -/
def PlainStorage (s : State) (a : Addr) : Prop :=
  (0x8000 ≤ a.toNat ∧ a.toNat ≤ 0x9FFF ∧ ¬(s.cfg.variant = .dmg ∧ s.vramBank = .bank1)) ∨
    (0xFE00 ≤ a.toNat ∧ a.toNat ≤ 0xFE9F) ∨
    (0xFF00 ≤ a.toNat ∧ a.toNat ≤ 0xFF7F ∧ a.toNat ≠ 0xFF41 ∧ a.toNat ≠ 0xFF44 ∧
      (s.cfg.variant = .cgb → a.toNat ≠ 0xFF4F ∧ a.toNat ≠ 0xFF69 ∧ a.toNat ≠ 0xFF6B))

/-- What the compositors read (42_background.md rule R242, 43_sprites.md rule R268) is the same in two states: on `DMG` the
monochrome palettes and the scheme, on `CGB` bank 1, the metadata and the color palettes. -/
def SameRenderInputs (s t : State) : Prop :=
  t.cfg = s.cfg ∧ t.winLine = s.winLine ∧
    (∀ k ∈ [0x40, 0x42, 0x43, 0x44, 0x4A, 0x4B], t.ioByte k = s.ioByte k) ∧
    (∀ r ∈ [Region.tile .bank0, Region.map .bank0, Region.oam], ∀ j, t.memRead r j = s.memRead r j) ∧
    (s.cfg.variant = .dmg → t.syspalSel = s.syspalSel ∧ ∀ k ∈ [0x47, 0x48, 0x49], t.ioByte k = s.ioByte k) ∧
    (s.cfg.variant = .cgb → ∀ r ∈ [Region.tile .bank1, Region.map .bank1, Region.bgpram, Region.obpram],
      ∀ j, t.memRead r j = s.memRead r j)

/-- The background's color at column `x` of row `y` (42_background.md rules R234, R235). -/
def BackgroundColor (s : State) (y x : Nat) : Rgba :=
  if s.cfg.variant = .dmg ∧ (s.ioByte 0x40).getLsbD 0 = false then Rgba.white
  else (layerPixel s ((s.ioByte 0x40).getLsbD 3) ((x + (s.ioByte 0x43).toNat) % 256) ((y + (s.ioByte 0x42).toNat) % 256)).color

/-- The window is skipped on row `y` (42_background.md rule R236). -/
abbrev WindowSkipped (s : State) (y : Nat) : Prop :=
  (s.ioByte 0x40).getLsbD 5 = false ∨ y < (s.ioByte 0x4A).toNat ∨ 160 ≤ (s.ioByte 0x4B).toNat - 7

/-- The window's internal line on row `y` (42_background.md rule R237). -/
def InternalLine (s : State) (y : Nat) : Nat :=
  match s.winLine with
  | some n => n + 1
  | none => y - (s.ioByte 0x4A).toNat

/-- The line buffers `bg_ci`, `row`, `bg_prio` under column `x` of row `y` after the background and window layers (42_background.md
rules R230, R234, R235, R238): the window's pixel where it is drawn, else the background's, else the initial values. -/
def LineBuffers (s : State) (y x : Nat) : LayerPixel :=
  if ¬WindowSkipped s y ∧ (s.ioByte 0x4B).toNat - 7 ≤ x then
    layerPixel s ((s.ioByte 0x40).getLsbD 6) (x - ((s.ioByte 0x4B).toNat - 7)) (InternalLine s y % 256)
  else if s.cfg.variant = .dmg ∧ (s.ioByte 0x40).getLsbD 0 = false then ⟨0, Rgba.white, false⟩
  else layerPixel s ((s.ioByte 0x40).getLsbD 3) ((x + (s.ioByte 0x43).toNat) % 256) ((y + (s.ioByte 0x42).toNat) % 256)

/-- Sprite `k` of the object table qualifies on row `y` (43_sprites.md rules R260 to R262), in terms of its bytes Y and X. -/
def QualifiesOn (s : State) (y k : Nat) : Prop :=
  (s.memRead .oam (4 * k)).toNat ≤ y + 16 ∧
    y + 16 < (s.memRead .oam (4 * k)).toNat + (if (s.ioByte 0x40).getLsbD 2 then 16 else 8) ∧
    0 < (s.memRead .oam (4 * k + 1)).toNat ∧ (s.memRead .oam (4 * k + 1)).toNat < 168

/-- Sprite `a` of the table has higher priority than sprite `b` (43_sprites.md rule R263). -/
def HigherPriority (s : State) (a b : Nat) : Prop :=
  (s.memRead .oam (4 * a + 1)).toNat < (s.memRead .oam (4 * b + 1)).toNat ∨
    (s.memRead .oam (4 * a + 1) = s.memRead .oam (4 * b + 1) ∧ a < b)

/-- Sprite `k` of the table is in the drawn set of row `y` (43_sprites.md rule R264): on `DMG`, fewer than 10 qualifying
sprites have higher priority. -/
def InDrawnSet (s : State) (y k : Nat) : Prop :=
  k < 40 ∧ QualifiesOn s y k ∧
    (s.cfg.variant = .dmg → ∀ l : List Nat, l.Nodup → (∀ j ∈ l, j < 40 ∧ QualifiesOn s y j ∧ HigherPriority s j k) → l.length < 10)

/-- The pixel of sprite `k` shows at column `x` of row `y`: its byte X places it over the column and its color index there is not 0
(43_sprites.md rules R261, R266, R269), and it passes the background test against the line buffers (rule R270). -/
def ShowsAt (s : State) (y x k : Nat) : Prop :=
  ((s.memRead .oam (4 * k + 1)).toNat ≤ x + 8 ∧ x < (s.memRead .oam (4 * k + 1)).toNat ∧ spriteCi s y (s.sprite k) x ≠ 0) ∧
    passes s (s.sprite k) (LineBuffers s y x) = true

/-- The state with other contents in the memories that are reachable only on `CGB` (10_state.md rules R37, R38, R40). -/
def State.withColorMemory (s : State) (tile1 map1 bgpram obpram : Memory) : State :=
  { s with tile1 := tile1, map1 := map1, bgpram := bgpram, obpram := obpram }

end Sys2Proof.Machine

/-! ## Decoding -/

/-- Words written out bit by bit from 30_encoding.md rule R92 and 95_test_vectors.md §1.10 decode to what they stand for. -/
def Obligations.SpecWordsDecode : Prop :=
  decode 0b0001_00_0000000000_0111111111111111#32 = .ok (.rdUnmapped 0x7FFF none) ∧
  decode 0b0001_00_0000000000_1000000000000000#32 = .ok (.rdTile 0x8000 none) ∧
  decode 0b0001_11_0000000000_1001111111111111#32 = .ok (.rdMap 0x9FFF (some .bank1)) ∧
  decode 0b0010_0000_00000000_1111111010011111#32 = .ok (.wrOam 0xFE9F 0) ∧
  decode 0b0010_0000_00000000_1111111010100000#32 = .ok (.wrUnmapped 0xFEA0 0) ∧
  decode 0b0001_11_0000000000_1111111101000000#32 = .ok (.rdLcdc (some .bank1)) ∧
  decode 0b0001_00_0000000000_1111111101000110#32 = .ok (.rdIo 0xFF46 none) ∧
  decode 0b0010_0000_00010010_1111111101101011#32 = .ok (.wrObpd 0x12) ∧
  decode 0b0011_1111111111111111111111111111#32 = .ok (.update 268435455) ∧
  decode 0b0100_0000000000000000000000000000#32 = .ok .renderScanline ∧
  decode 0b0101_0000000000000000000000000000#32 = .ok .renderScreen ∧
  decode 0b0110_0000000000000000000000000000#32 = .ok .getMode ∧
  decode 0b0111_00000000000000000000_11111111#32 = .ok (.selectSyspal 255) ∧
  decode 0b0001_01_0000000000_1000000000000000#32 = .error .reservedBov

/-- Decoding the word of any well-formed instruction gives it back, every operand at every value the word can spell. -/
def Obligations.DecodeOfEncode : Prop := ∀ i : Instr, i.wf = true → decode (encode i) = .ok i

/-- Every word that is not reserved spells one well-formed instruction, whose word it is (rule R94: "every address lands in
exactly one mnemonic"). -/
def Obligations.EncodeOfDecode : Prop := ∀ (w : Word) (i : Instr), decode w = .ok i → encode i = w ∧ i.wf = true

/-- The decoder refuses exactly the words of 30_encoding.md rule R97, and a block that is presented one refuses it. -/
def Obligations.ReservedWordsRefused : Prop :=
  (∀ w : Word, (∃ e, decode w = .error e) ↔ ReservedWord w) ∧
  ∀ (s : State) (w : Word) (rest : List Word), s.fault = none → s.pending = w :: rest → ReservedWord w →
    ∃ e, step s = .refused (.reservedWord e)

/-! ## Stepping -/

/-- A step runs the decoded instruction of the next word presented, with the word taken from the front of `pending`; with nothing
presented, and no fault, a step changes nothing (the model's choice, log 4). -/
def Obligations.StepRunsDecoded : Prop :=
  (∀ (s : State) (w : Word) (rest : List Word) (i : Instr), s.fault = none → s.pending = w :: rest → decode w = .ok i →
    step s = exec i (s.setPending rest)) ∧
  ∀ s : State, s.fault = none → s.pending = [] → step s = .next s

/-- 60_exceptions.md rule R330: a contract violation changes nothing of the block, returns no value and sets `FAULT`; with
`FAULT` set there is no further step, so nothing clears it. (That the violation is a next state of the model is log 6.) -/
def Obligations.FaultOutcome : Prop :=
  (∀ (s : State) (i : Instr) (a : Addr), Violates s i a →
    ∃ t, exec i s = .next t ∧ Answers (s.setFault (some (.dmgNonZeroBank a))) t .none) ∧
  ∀ (s : State) (f : Fault), s.fault = some f → step s = .refused (.blockFaulted f)

/-- 60_exceptions.md rule R331: the one fault reason, raised by the four VRAM mnemonics when the profile is `DMG` and the
effective bank is not 0, with the address recorded; no other transaction changes `FAULT`. -/
def Obligations.OnlyVramAccessFaults : Prop :=
  ∀ (i : Instr) (s t : State), exec i s = .next t →
    (∀ a, Violates s i a → t.fault = some (.dmgNonZeroBank a)) ∧ ((∀ a, ¬Violates s i a) → t.fault = s.fault)

/-- 30_encoding.md rule R98, 60_exceptions.md rule R332: every transaction has a next state, but SELECT_SYSPAL with a choice that
has no scheme, which is refused; no meaning answers a fault or any other refusal. That the contract violation, which rule R330 says does not complete, has
a next state (the one with `FAULT` set) is the model's choice, log 6. -/
def Obligations.EveryTransactionHasNextState : Prop :=
  ∀ (i : Instr) (s : State),
    (∃ t, exec i s = .next t) ∨
      ∃ c, i = .selectSyspal c ∧ s.cfg.syspal.length ≤ c ∧ exec i s = .refused (.noSuchScheme c)

/-! ## Reset and invariants -/

/-- 70_reset_and_hazards.md rule R360: the state of a new instance, for every configuration and every `INIT_MEM`. -/
def Obligations.ResetState : Prop :=
  ∀ (c : Config) (m : InitMem),
    (∀ k, k ≠ 0x41 → (State.create c m).ioByte k = 0x00) ∧ (State.create c m).ioByte 0x41 = 0x02 ∧
    (State.create c m).dot = 0 ∧ (State.create c m).line = 0 ∧ (State.create c m).mode = .objectSearch ∧
    (State.create c m).vramBank = .bank0 ∧ (State.create c m).winLine = none ∧
    (∀ x y, (State.create c m).pixel x y = Rgba.white) ∧ (State.create c m).syspalSel = 0 ∧
    (State.create c m).fault = none ∧ (State.create c m).cfg = c ∧
    (∀ k, (State.create c m).memRead (.tile .bank0) k = Memory.read 0 m.tile0 k) ∧
    (∀ k, (State.create c m).memRead (.tile .bank1) k = Memory.read 0 m.tile1 k) ∧
    (∀ k, (State.create c m).memRead (.map .bank0) k = Memory.read 0 m.map0 k) ∧
    (∀ k, (State.create c m).memRead (.map .bank1) k = Memory.read 0 m.map1 k) ∧
    (∀ k, (State.create c m).memRead .oam k = Memory.read 0 m.oam k) ∧
    (∀ k, (State.create c m).memRead .bgpram k = Memory.read 0 m.bgpram k) ∧
    ∀ k, (State.create c m).memRead .obpram k = Memory.read 0 m.obpram k

/-- The model's own choices at reset: `State.reset` is the `DMG` instance with the default parameters (log 2) and every byte of
`INIT_MEM` 0x00 (log 3), nothing presented (log 4); both default configurations meet the spec's constraints. -/
def Obligations.ResetIsDefaultInstance : Prop :=
  State.reset = State.create (Config.default .dmg) InitMem.zero ∧ State.reset.pending = [] ∧
    (∀ r i, r ≠ .fb → ¬(r = .io ∧ i = 0x41) → State.reset.memRead r i = 0x00) ∧ ∀ v, (Config.default v).Valid

/-- A new instance with a configuration the spec allows and any canonical memory contents meets the invariant. -/
def Obligations.NewInstanceMeetsInv : Prop :=
  ∀ (c : Config) (m : InitMem), c.Valid → m.wf → (State.create c m).Inv

/-- Every step keeps the invariant: memories canonical and inside their regions, `MODE = mode_of(LINE, DOT)` (10_state.md rule
R43), LY equal to `LINE` (rule R45), STAT bits 1:0 the mode id, `VRAM_BANK` 0 on `DMG` (rule R34), an existing scheme selected
(rule R20), the `IO` bytes `CGB` does not use untouched. -/
def Obligations.StepKeepsInv : Prop := ∀ s t : State, s.Inv → step s = .next t → t.Inv

/-- 00_scope.md rule R3: `VARIANT`, and the rest of the configuration, is fixed for the lifetime of an instance. -/
def Obligations.ConfigurationIsFixed : Prop := ∀ s t : State, step s = .next t → t.cfg = s.cfg

/-- On `DMG` with bank 0 selected no step reaches bank 1 of the tile store or the map store, or a color palette RAM, or
selects another bank (10_state.md rules R34, R37, R38, R40: they are reachable only on `CGB`). No step writes them; and with any
other contents in them the step gives the same answer, the same refusal and the same rest of the state. -/
def Obligations.DmgCannotReachColorMemory : Prop :=
  (∀ s t : State, s.cfg.variant = .dmg → s.vramBank = .bank0 → step s = .next t →
    t.vramBank = .bank0 ∧
      ∀ r ∈ [Region.tile .bank1, Region.map .bank1, Region.bgpram, Region.obpram], ∀ j, t.memRead r j = s.memRead r j) ∧
  ∀ (s : State) (tile1 map1 bgpram obpram : Memory), s.cfg.variant = .dmg → s.vramBank = .bank0 →
    (∀ t, step s = .next t →
      step (s.withColorMemory tile1 map1 bgpram obpram) = .next (t.withColorMemory tile1 map1 bgpram obpram)) ∧
    ∀ e, step s = .refused e → step (s.withColorMemory tile1 map1 bgpram obpram) = .refused e

/-- Who writes what (10_state.md rules R41 to R44, R34): `DOT`, `LINE` and `MODE` change in UPDATE only, `FB` in
RENDER_SCANLINE only, `SYSPAL_SEL` in SELECT_SYSPAL only, `VRAM_BANK` in WR_VBK only. -/
def Obligations.OwnersOfState : Prop :=
  ∀ (i : Instr) (s t : State), exec i s = .next t →
    ((∀ n, i ≠ .update n) → t.dot = s.dot ∧ t.line = s.line ∧ t.mode = s.mode) ∧
    (i ≠ .renderScanline → ∀ j, t.memRead .fb j = s.memRead .fb j) ∧
    ((∀ c, i ≠ .selectSyspal c) → t.syspalSel = s.syspalSel) ∧
    ((∀ v, i ≠ .wrVbk v) → t.vramBank = s.vramBank)

/-- 10_state.md rule R46, 42_background.md rule R240: `WIN_LINE` is set by a RENDER_SCANLINE in which the window is drawn, to the
internal line drawn; it is cleared by an UPDATE in which LY changes to 0; nothing else changes it. -/
def Obligations.WhoWritesWinLine : Prop :=
  ∀ (i : Instr) (s t : State), exec i s = .next t →
    (i = .renderScanline → (s.ioByte 0x44).toNat < 144 → ¬WindowSkipped s (s.ioByte 0x44).toNat →
      t.winLine = some (InternalLine s (s.ioByte 0x44).toNat)) ∧
    (i = .renderScanline → (144 ≤ (s.ioByte 0x44).toNat ∨ WindowSkipped s (s.ioByte 0x44).toNat) → t.winLine = s.winLine) ∧
    (∀ n, i = .update n → t.winLine = if t.ioByte 0x44 = 0 ∧ s.ioByte 0x44 ≠ 0 then none else s.winLine) ∧
    (i ≠ .renderScanline → (∀ n, i ≠ .update n) → t.winLine = s.winLine)

/-! ## Bus reads and writes -/

/-- 41_bus_access.md rules R160 to R163: the words of a READ of a tile pattern or map byte, and of a WRITE of one; a READ is of
the effective bank, a WRITE of the active bank, and a bank other than 0 on `DMG` faults. That the access that faults has a next
state, with the fault recorded, is the model's choice, log 6. -/
def Obligations.VramReadsAndWrites : Prop :=
  (∀ (s : State) (i : Instr) (a : Addr), Violates s i a → ∃ t, exec i s = .next t ∧ t.fault = some (.dmgNonZeroBank a)) ∧
  (∀ (s : State) (a : Addr) (bov : BankOverride) (b : Bank), b = bov.getD s.vramBank → ¬(s.cfg.variant = .dmg ∧ b = .bank1) →
    (0x8000 ≤ a.toNat → a.toNat ≤ 0x97FF →
      decode (encodeRead a bov) = .ok (.rdTile a bov) ∧
        ∃ t, exec (.rdTile a bov) s = .next t ∧ Answers s t (.byte (s.memRead (.tile b) (a.toNat - 0x8000)))) ∧
    (0x9800 ≤ a.toNat → a.toNat ≤ 0x9FFF →
      decode (encodeRead a bov) = .ok (.rdMap a bov) ∧
        ∃ t, exec (.rdMap a bov) s = .next t ∧ Answers s t (.byte (s.memRead (.map b) (a.toNat - 0x9800))))) ∧
  ∀ (s : State) (a : Addr) (v : Byte), ¬(s.cfg.variant = .dmg ∧ s.vramBank = .bank1) →
    (0x8000 ≤ a.toNat → a.toNat ≤ 0x97FF →
      decode (encodeWrite a v) = .ok (.wrTile a v) ∧
        ∃ t, exec (.wrTile a v) s = .next t ∧ Stores s t (.tile s.vramBank) (a.toNat - 0x8000) v) ∧
    (0x9800 ≤ a.toNat → a.toNat ≤ 0x9FFF →
      decode (encodeWrite a v) = .ok (.wrMap a v) ∧
        ∃ t, exec (.wrMap a v) s = .next t ∧ Stores s t (.map s.vramBank) (a.toNat - 0x9800) v)

/-- 41_bus_access.md rules R164, R165: the object table. -/
def Obligations.OamReadsAndWrites : Prop :=
  ∀ (s : State) (a : Addr) (bov : BankOverride) (v : Byte), 0xFE00 ≤ a.toNat → a.toNat ≤ 0xFE9F →
    decode (encodeRead a bov) = .ok (.rdOam a bov) ∧ decode (encodeWrite a v) = .ok (.wrOam a v) ∧
    (∃ t, exec (.rdOam a bov) s = .next t ∧ Answers s t (.byte (s.memRead .oam (a.toNat - 0xFE00)))) ∧
    ∃ t, exec (.wrOam a v) s = .next t ∧ Stores s t .oam (a.toNat - 0xFE00) v

/-- 41_bus_access.md rules R166, R168, R170, R172, R174, R176, R184, R186: the display, scroll, line and window registers. -/
def Obligations.DisplayRegisterReads : Prop :=
  ReadsRegister .rdLcdc 0x40 ∧ ReadsRegister .rdStat 0x41 ∧ ReadsRegister .rdScy 0x42 ∧ ReadsRegister .rdScx 0x43 ∧
    ReadsRegister .rdLy 0x44 ∧ ReadsRegister .rdLyc 0x45 ∧ ReadsRegister .rdWy 0x4A ∧ ReadsRegister .rdWx 0x4B

/-- 41_bus_access.md rules R167, R171, R173, R177, R185, R187. -/
def Obligations.DisplayRegisterWrites : Prop :=
  WritesRegister .wrLcdc 0x40 ∧ WritesRegister .wrScy 0x42 ∧ WritesRegister .wrScx 0x43 ∧ WritesRegister .wrLyc 0x45 ∧
    WritesRegister .wrWy 0x4A ∧ WritesRegister .wrWx 0x4B

/-- 41_bus_access.md rules R178 to R183, R190, R191, R194, R195: the palette and palette index registers, the whole byte. -/
def Obligations.PaletteRegisters : Prop :=
  (ReadsRegister .rdBgp 0x47 ∧ ReadsRegister .rdObp0 0x48 ∧ ReadsRegister .rdObp1 0x49 ∧ ReadsRegister .rdBgpi 0x68 ∧
    ReadsRegister .rdObpi 0x6A) ∧
  WritesRegister .wrBgp 0x47 ∧ WritesRegister .wrObp0 0x48 ∧ WritesRegister .wrObp1 0x49 ∧ WritesRegister .wrBgpi 0x68 ∧
    WritesRegister .wrObpi 0x6A

/-- 41_bus_access.md rules R169, R175: a write of STAT changes bits 7:3 only, LYC_EQ and MODE keep their values; a write of LY is
ignored. -/
def Obligations.StatAndLyWrites : Prop :=
  ∀ (s : State) (v : Byte),
    encode (.wrStat v) &&& 0xFF00FFFF#32 = 0x2000FF41#32 ∧ encode (.wrLy v) &&& 0xFF00FFFF#32 = 0x2000FF44#32 ∧
    (∃ t, exec (.wrStat v) s = .next t ∧ Stores s t .io 0x41 ((v &&& 0xF8) ||| (s.ioByte 0x41 &&& 0x07)) ∧
      (∀ k, 3 ≤ k → (t.ioByte 0x41).getLsbD k = v.getLsbD k) ∧
      ∀ k, k < 3 → (t.ioByte 0x41).getLsbD k = (s.ioByte 0x41).getLsbD k) ∧
    ∃ t, exec (.wrLy v) s = .next t ∧ Answers s t .none

/-- 41_bus_access.md rules R188, R189: VBK, a bank select on `CGB` and a plain byte on `DMG`. -/
def Obligations.VbkSelectsBankOnCgb : Prop :=
  ∀ (s : State) (bov : BankOverride) (v : Byte),
    encode (.rdVbk bov) &&& 0xF3FFFFFF#32 = 0x1000FF4F#32 ∧ encode (.wrVbk v) &&& 0xFF00FFFF#32 = 0x2000FF4F#32 ∧
    (s.cfg.variant = .cgb →
      (∃ t, exec (.rdVbk bov) s = .next t ∧
        Answers s t (.byte (s.cfg.vbkReadHigh ||| (if s.vramBank = .bank1 then 1 else 0)))) ∧
      ∃ t, exec (.wrVbk v) s = .next t ∧
        Answers (s.setVramBank (if v.toNat % 2 = 1 then .bank1 else .bank0)) t .none) ∧
    (s.cfg.variant = .dmg →
      (∃ t, exec (.rdVbk bov) s = .next t ∧ Answers s t (.byte (s.ioByte 0x4F))) ∧
      ∃ t, exec (.wrVbk v) s = .next t ∧ Stores s t .io 0x4F v)

/-- 41_bus_access.md rules R192, R193, R196, R197: palette data READs and WRITEs; on `CGB` either advances the index; on `DMG` the
data registers are plain bytes. -/
def Obligations.PaletteData : Prop :=
  (ReadsPalette .rdBgpd .bgpram 0x68 ∧ ReadsPalette .rdObpd .obpram 0x6A) ∧
  (WritesPalette .wrBgpd .bgpram 0x68 ∧ WritesPalette .wrObpd .obpram 0x6A) ∧
  ∀ (s : State) (bov : BankOverride) (v : Byte), s.cfg.variant = .dmg →
    (∃ t, exec (.rdBgpd bov) s = .next t ∧ Answers s t (.byte (s.ioByte 0x69))) ∧
    (∃ t, exec (.rdObpd bov) s = .next t ∧ Answers s t (.byte (s.ioByte 0x6B))) ∧
    (∃ t, exec (.wrBgpd v) s = .next t ∧ Stores s t .io 0x69 v) ∧
    ∃ t, exec (.wrObpd v) s = .next t ∧ Stores s t .io 0x6B v

/-- 41_bus_access.md rules R198, R199: plain I/O bytes, 0xFF46 among them. -/
def Obligations.PlainIoReadsAndWrites : Prop :=
  ∀ (s : State) (a : Addr) (bov : BankOverride) (v : Byte), 0xFF00 ≤ a.toNat → a.toNat ≤ 0xFF7F → a.isNamed = false →
    decode (encodeRead a bov) = .ok (.rdIo a bov) ∧ decode (encodeWrite a v) = .ok (.wrIo a v) ∧
    (∃ t, exec (.rdIo a bov) s = .next t ∧ Answers s t (.byte (s.ioByte (a.toNat - 0xFF00)))) ∧
    ∃ t, exec (.wrIo a v) s = .next t ∧ Stores s t .io (a.toNat - 0xFF00) v

/-- 41_bus_access.md rules R200, R201, 20_memory.md rule R61: outside every region reads return 0 and writes do nothing; which
addresses those are is what the decoder says of every READ and WRITE word. -/
def Obligations.UnmappedReadsAndWrites : Prop :=
  ∀ (s : State) (a : Addr) (bov : BankOverride) (v : Byte),
    ¬(0x8000 ≤ a.toNat ∧ a.toNat ≤ 0x9FFF) → ¬(0xFE00 ≤ a.toNat ∧ a.toNat ≤ 0xFE9F) → ¬(0xFF00 ≤ a.toNat ∧ a.toNat ≤ 0xFF7F) →
    decode (encodeRead a bov) = .ok (.rdUnmapped a bov) ∧ decode (encodeWrite a v) = .ok (.wrUnmapped a v) ∧
    (∃ t, exec (.rdUnmapped a bov) s = .next t ∧ Answers s t (.byte 0x00)) ∧
    ∃ t, exec (.wrUnmapped a v) s = .next t ∧ Answers s t .none

/-- 41_bus_access.md rule R150: what every bus transaction does and does not do. A READ answers a byte and a WRITE nothing, unless
the access is the contract violation; outside VRAM the bank override is ignored; none is refused; none changes `DOT`, `LINE`,
`MODE`, LY, `WIN_LINE` or `FB`. That the violation too has a next state, with `FAULT` set, is the model's choice, log 6. -/
def Obligations.BusTransactionsLeaveDisplayState : Prop :=
  (∀ (i : Instr) (s : State), i.wf = true → i.isRead = true ∨ i.isWrite = true →
    (i.isRead = true → (encode i).toNat / 2 ^ 28 = 1) ∧ (i.isWrite = true → (encode i).toNat / 2 ^ 28 = 2) ∧
    ∃ t, exec i s = .next t ∧ (i.isWrite = true → t.response = .none) ∧
      (i.isRead = true → (∀ a, ¬Violates s i a) → ∃ v, t.response = .byte v) ∧
      t.dot = s.dot ∧ t.line = s.line ∧ t.mode = s.mode ∧ t.ioByte 0x44 = s.ioByte 0x44 ∧ t.winLine = s.winLine ∧
      ∀ j, t.memRead .fb j = s.memRead .fb j) ∧
  ∀ (a : Addr) (bov : BankOverride) (s : State), ¬(0x8000 ≤ a.toNat ∧ a.toNat ≤ 0x9FFF) →
    exec (readMnemonic a bov) s = exec (readMnemonic a none) s

/-- 41_bus_access.md rule R151: no READ or WRITE writes STAT.LYC_EQ or STAT.MODE, and the only exception one raises is the
contract violation of the four VRAM mnemonics. -/
def Obligations.BusTransactionsKeepFlags : Prop :=
  ∀ (i : Instr) (s t : State), i.wf = true → i.isRead = true ∨ i.isWrite = true → exec i s = .next t →
    (∀ k, k < 3 → (t.ioByte 0x41).getLsbD k = (s.ioByte 0x41).getLsbD k) ∧ ((∀ a, ¬Violates s i a) → t.fault = s.fault) ∧
      ∀ a, Violates s i a → t.fault = some (.dmgNonZeroBank a)

/-- 20_memory.md rule R72: a READ changes state only at BGPD and OBPD on `CGB` with `AUTO_INC` set, where the index advances, and
in the contract violation, which sets `FAULT` and nothing else. -/
def Obligations.ReadSideEffects : Prop :=
  ∀ (i : Instr) (s t : State), i.isRead = true → exec i s = .next t →
    ((∀ a, ¬Violates s i a) →
      ¬(s.cfg.variant = .cgb ∧ (∃ bov, i = .rdBgpd bov) ∧ (s.ioByte 0x68).getLsbD 7 = true) →
      ¬(s.cfg.variant = .cgb ∧ (∃ bov, i = .rdObpd bov) ∧ (s.ioByte 0x6A).getLsbD 7 = true) → SameRegisters s t ∧ SameBytes s t) ∧
    (s.cfg.variant = .cgb → (∃ bov, i = .rdBgpd bov) → (s.ioByte 0x68).getLsbD 7 = true →
      (t.ioByte 0x68).toNat % 64 = ((s.ioByte 0x68).toNat + 1) % 64) ∧
    (s.cfg.variant = .cgb → (∃ bov, i = .rdObpd bov) → (s.ioByte 0x6A).getLsbD 7 = true →
      (t.ioByte 0x6A).toNat % 64 = ((s.ioByte 0x6A).toNat + 1) % 64) ∧
    ∀ a, Violates s i a → t.fault = some (.dmgNonZeroBank a)

/-- 20_memory.md rule R74: at an address whose byte is plain storage, a READ right after a WRITE of `v` returns `v`. -/
def Obligations.ReadAfterWrite : Prop :=
  ∀ (s : State) (a : Addr) (v : Byte), PlainStorage s a →
    ∃ t u, exec (writeMnemonic a v) s = .next t ∧ exec (readMnemonic a none) t = .next u ∧ u.response = .byte v

/-- 20_memory.md rule R75: no access is refused or changed by the mode: the same transaction in any display mode answers the same
and leaves the same bytes, bank and fault. That the contract violation has a next state (log 6), and that `exec` has one for a term
no word spells (log 9), are the model's choices. -/
def Obligations.NoAccessLockingByMode : Prop :=
  ∀ (i : Instr) (s : State) (m : Mode), i.isRead = true ∨ i.isWrite = true →
    ∃ t u, exec i s = .next t ∧ exec i (s.setFsm s.dot s.line m) = .next u ∧ u.response = t.response ∧ SameBytes t u ∧
      u.vramBank = t.vramBank ∧ u.fault = t.fault

/-! ## UPDATE and GET_MODE -/

/-- 40_mode_fsm.md rule R131: UPDATE moves the position as the loop of `fsm_step` does, derives the mode and answers the loop's flags. -/
def Obligations.UpdateStepsAsLoop : Prop :=
  ∀ (s : State) (n : Nat), ∃ t irq adv fdone,
    exec (.update n) s = .next t ∧ t.response = .update ⟨t.line, modeId t.mode, adv, fdone⟩ irq ∧
    fsmLoop s.cfg.frameDoneLine.val (s.dot.val + n) (s.dot.val + n) s.line.val false false = (t.dot.val, t.line.val, adv, fdone) ∧
    t.mode = modeOf s.cfg t.line t.dot

/-- 40_mode_fsm.md rule R130: the mode after an UPDATE, from the line and the cycle within it, and its numeric id. -/
def Obligations.ModeFollowsPosition : Prop :=
  ∀ (s : State) (n : Nat), ∃ t step irq, exec (.update n) s = .next t ∧ t.response = .update step irq ∧
    (144 ≤ t.line.val → t.mode = .vBlank ∧ step.mode = 1) ∧
    (t.line.val < 144 → t.dot.val < s.cfg.oamLen → t.mode = .objectSearch ∧ step.mode = 2) ∧
    (t.line.val < 144 → s.cfg.oamLen ≤ t.dot.val → t.dot.val < s.cfg.oamLen + s.cfg.xferLen →
      t.mode = .pixelTransfer ∧ step.mode = 3) ∧
    (t.line.val < 144 → s.cfg.oamLen + s.cfg.xferLen ≤ t.dot.val → t.mode = .hBlank ∧ step.mode = 0)

/-- 40_mode_fsm.md rule R133: "frame completed" exactly when the step took `LINE` to `FRAME_DONE_LINE` across a boundary; the
boundaries crossed are `k = (DOT + n) / 456`. -/
def Obligations.FrameCompletedMeaning : Prop :=
  ∀ (s : State) (n : Nat), ∃ t step irq, exec (.update n) s = .next t ∧ t.response = .update step irq ∧
    (step.frameCompleted = true ↔
      ∃ j, 1 ≤ j ∧ j ≤ (s.dot.val + n) / 456 ∧ (s.line.val + j) % 154 = s.cfg.frameDoneLine.val)

/-- 40_mode_fsm.md rule R136: LY, LYC_EQ and `WIN_LINE` change only when the line differs from LY, as the rule says; the
coincidence condition raises `irq`, and where the mode stays the same nothing else does. -/
def Obligations.ScanlineUpdate : Prop :=
  ∀ (s : State) (n : Nat), ∃ t step irq, exec (.update n) s = .next t ∧ t.response = .update step irq ∧
    (t.line.val = (s.ioByte 0x44).toNat →
      t.ioByte 0x44 = s.ioByte 0x44 ∧ (t.ioByte 0x41).getLsbD 2 = (s.ioByte 0x41).getLsbD 2 ∧ t.winLine = s.winLine) ∧
    (t.line.val ≠ (s.ioByte 0x44).toNat →
      (t.ioByte 0x44).toNat = t.line.val ∧
      ((t.ioByte 0x41).getLsbD 2 = true ↔ t.line.val = (s.ioByte 0x45).toNat) ∧
      t.winLine = (if t.line.val = 0 then none else s.winLine) ∧
      (t.line.val = (s.ioByte 0x45).toNat → (s.ioByte 0x41).getLsbD 6 = true → irq = true)) ∧
    (t.mode = s.mode → (irq = true ↔ t.line.val ≠ (s.ioByte 0x44).toNat ∧ t.line.val = (s.ioByte 0x45).toNat ∧
      (s.ioByte 0x41).getLsbD 6 = true))

/-- 40_mode_fsm.md rules R137, R139: `irq` is the OR of the coincidence condition and the mode-change condition; entering
PixelTransfer never raises it. -/
def Obligations.UpdateInterrupt : Prop :=
  ∀ (s : State) (n : Nat), ∃ t step irq, exec (.update n) s = .next t ∧ t.response = .update step irq ∧
    (irq = true ↔
      (t.line.val ≠ (s.ioByte 0x44).toNat ∧ t.line.val = (s.ioByte 0x45).toNat ∧ (s.ioByte 0x41).getLsbD 6 = true) ∨
      (t.mode ≠ s.mode ∧
        ((t.mode = .hBlank ∧ (s.ioByte 0x41).getLsbD 3 = true) ∨ (t.mode = .vBlank ∧ (s.ioByte 0x41).getLsbD 4 = true) ∨
          (t.mode = .objectSearch ∧ (s.ioByte 0x41).getLsbD 5 = true))))

/-- 40_mode_fsm.md rule R138: after any UPDATE STAT bits 1:0 are the mode id it returned; bits 7:3 keep their values. -/
def Obligations.UpdateWritesStatMode : Prop :=
  ∀ (s : State) (n : Nat), ∃ t step irq, exec (.update n) s = .next t ∧ t.response = .update step irq ∧
    (t.ioByte 0x41).toNat % 4 = step.mode.toNat ∧ ∀ k, 3 ≤ k → (t.ioByte 0x41).getLsbD k = (s.ioByte 0x41).getLsbD k

/-- The frame of UPDATE (40_mode_fsm.md rule R139, "Flags written"): every byte but STAT and LY, and every register but `DOT`,
`LINE`, `MODE` and `WIN_LINE`, is unchanged. -/
def Obligations.UpdateFrame : Prop :=
  ∀ (s : State) (n : Nat), ∃ t, exec (.update n) s = .next t ∧
    (∀ r j, ¬(r = .io ∧ (j = 0x41 ∨ j = 0x44)) → t.memRead r j = s.memRead r j) ∧
    t.cfg = s.cfg ∧ t.vramBank = s.vramBank ∧ t.syspalSel = s.syspalSel ∧ t.fault = s.fault ∧ t.pending = s.pending

/-- 40_mode_fsm.md rule R132 and the corner cases of rule R139, all of which the spec derives: "scanline advanced" exactly when the
step crossed at least one line boundary; and, in a state whose mode and LY are as after an UPDATE, `UPD 0` changes nothing but
STAT.MODE (bits 1:0 of STAT) and answers no interrupt, an UPDATE of whole frames returns to the same position, reports an advance, leaves LY, LYC_EQ
and `WIN_LINE` alone and raises no interrupt. -/
def Obligations.UpdateCornerCases : Prop :=
  (∀ (s : State) (n : Nat), ∃ t step irq, exec (.update n) s = .next t ∧ t.response = .update step irq ∧
    (step.lineAdvanced = true ↔ 456 ≤ s.dot.val + n) ∧
    t.dot.val = (s.dot.val + n) % 456 ∧ t.line.val = (s.line.val + (s.dot.val + n) / 456) % 154) ∧
  ∀ s : State, s.mode = modeOf s.cfg s.line s.dot → s.ly = lineByte s.line →
    (∃ t, exec (.update 0) s = .next t ∧ t.response = .update ⟨s.line, modeId s.mode, false, false⟩ false ∧
      SameRegisters s t ∧ SameBytesBut s t .io 0x41 ∧ ∀ k, 2 ≤ k → (t.ioByte 0x41).getLsbD k = (s.ioByte 0x41).getLsbD k) ∧
    ∀ k, 1 ≤ k → ∃ t fdone, exec (.update (k * 70224)) s = .next t ∧
      t.response = .update ⟨s.line, modeId s.mode, true, fdone⟩ false ∧ SameRegisters s t ∧ t.ioByte 0x44 = s.ioByte 0x44 ∧
      (t.ioByte 0x41).getLsbD 2 = (s.ioByte 0x41).getLsbD 2

/-- 40_mode_fsm.md rule R135: the state machine runs whatever LCDC holds. Two states that differ in LCDC only give the same
position, mode, answer, STAT, LY and `WIN_LINE`. -/
def Obligations.StateMachineIgnoresLcdc : Prop :=
  ∀ (s : State) (v : Byte) (n : Nat), ∃ t u, exec (.update n) s = .next t ∧ exec (.update n) (s.setIo 0x40 v) = .next u ∧
    u.response = t.response ∧ u.dot = t.dot ∧ u.line = t.line ∧ u.mode = t.mode ∧ u.winLine = t.winLine ∧
    ∀ r j, ¬(r = .io ∧ j = 0x40) → u.memRead r j = t.memRead r j

/-- 40_mode_fsm.md rule R140: GET_MODE answers the numeric id of the mode and changes nothing; a new instance answers 2, and after
an UPDATE the answer is STAT bits 1:0 (corner cases the spec derives, from 10_state.md rule R43 and from rule R138). -/
def Obligations.GetModeAnswersId : Prop :=
  (∀ s : State, encode .getMode = 0x60000000#32 ∧ ∃ t id, exec .getMode s = .next t ∧ Answers s t (.mode id) ∧
    (s.mode = .hBlank → id = 0) ∧ (s.mode = .vBlank → id = 1) ∧ (s.mode = .objectSearch → id = 2) ∧
    (s.mode = .pixelTransfer → id = 3)) ∧
  (∀ (c : Config) (m : InitMem), ∃ t, exec .getMode (State.create c m) = .next t ∧ t.response = .mode 2) ∧
  ∀ (s : State) (n : Nat), ∃ t u id, exec (.update n) s = .next t ∧ exec .getMode t = .next u ∧ u.response = .mode id ∧
    id.toNat = (t.ioByte 0x41).toNat % 4

/-! ## Palette lookup -/

/-- 44_palette.md rule R305: a choice that has a scheme is selected, on either profile, and nothing else changes; any other is
refused. -/
def Obligations.SelectSyspal : Prop :=
  ∀ (s : State) (c : Nat),
    (c < s.cfg.syspal.length → ∃ t, exec (.selectSyspal c) s = .next t ∧ Answers (s.setSyspalSel c) t .none) ∧
    (s.cfg.syspal.length ≤ c → exec (.selectSyspal c) s = .refused (.noSuchScheme c))

/-- 44_palette.md rule R300, 10_state.md rule R31: the shade of color index `ci` is bits `2ci+1 : 2ci` of the palette register,
looked up in the selected scheme. -/
def Obligations.MonochromeLookup : Prop :=
  ∀ (s : State) (p : Byte) (ci : BitVec 2) (scheme : Scheme), s.cfg.syspal[s.syspalSel]? = some scheme →
    dmgColor s p ci =
      match p.toNat / 4 ^ ci.toNat % 4 with
      | 0 => scheme.shade0
      | 1 => scheme.shade1
      | 2 => scheme.shade2
      | _ => scheme.shade3

/-- 44_palette.md rule R302: the three 5-bit channels of the little-endian pair, expanded, opaque; bit 15 is not read. -/
def Obligations.ColorLookup : Prop :=
  ∀ (s : State) (ram : Region) (p : Nat) (ci : BitVec 2) (w : Nat),
    w = (s.memRead ram (8 * p + 2 * ci.toNat)).toNat + 256 * (s.memRead ram (8 * p + 2 * ci.toNat + 1)).toNat →
    cgbColor s ram p ci =
      ⟨s.cfg.chExpand[w % 32]'(Nat.mod_lt _ (by omega)), s.cfg.chExpand[w / 32 % 32]'(Nat.mod_lt _ (by omega)),
        s.cfg.chExpand[w / 1024 % 32]'(Nat.mod_lt _ (by omega)), 255⟩

/-- 44_palette.md rule R306 (which the spec derives from rules R302 and R303): the extremes, for every `CH_EXPAND` the spec allows. -/
def Obligations.ColorExtremes : Prop :=
  ∀ (s : State) (ram : Region) (p : Nat) (ci : BitVec 2), s.cfg.Valid →
    (s.memRead ram (8 * p + 2 * ci.toNat) = 0xFF → s.memRead ram (8 * p + 2 * ci.toNat + 1) = 0x7F →
      cgbColor s ram p ci = ⟨255, 255, 255, 255⟩) ∧
    (s.memRead ram (8 * p + 2 * ci.toNat) = 0xFF → s.memRead ram (8 * p + 2 * ci.toNat + 1) = 0xFF →
      cgbColor s ram p ci = ⟨255, 255, 255, 255⟩) ∧
    (s.memRead ram (8 * p + 2 * ci.toNat) = 0x00 → s.memRead ram (8 * p + 2 * ci.toNat + 1) = 0x00 →
      cgbColor s ram p ci = ⟨0, 0, 0, 255⟩)

/-- 44_palette.md rule R303: the default expansion is bit replication and keeps both extremes. -/
def Obligations.DefaultExpansion : Prop :=
  ∀ (v : Variant) (c : BitVec 5),
    (expand5 (Config.default v) c).toNat = (c.toNat <<< 3) ||| (c.toNat >>> 2) ∧
      expand5 (Config.default v) 0 = 0 ∧ expand5 (Config.default v) 31 = 255

/-! ## Rendering -/

/-- 43_sprites.md rule R276: the frame, or an all-white one when `LCD_EN` is 0; no state changes. -/
def Obligations.RenderScreen : Prop :=
  ∀ s : State, encode .renderScreen = 0x50000000#32 ∧ ∃ t f, exec .renderScreen s = .next t ∧ Answers s t (.frame f) ∧
    ((s.ioByte 0x40).getLsbD 7 = true → ∀ j, Memory.read 0xFF f j = s.memRead .fb j) ∧
    ((s.ioByte 0x40).getLsbD 7 = false → ∀ j, Memory.read 0xFF f j = 0xFF)

/-- 43_sprites.md rule R275: on a visible line RENDER_SCANLINE stores the composed row `y = LY` in `FB`, all 160 pixels, and
`WIN_LINE`, and changes nothing else; on lines 144 and up it changes nothing. -/
def Obligations.RenderScanline : Prop :=
  ∀ (s : State) (y : Nat), y = (s.ioByte 0x44).toNat →
    encode .renderScanline = 0x40000000#32 ∧
    (144 ≤ y → ∃ t, exec .renderScanline s = .next t ∧ Answers s t .none) ∧
    (y < 144 → ∃ t, exec .renderScanline s = .next t ∧ t.response = .none ∧
      (∀ x, x < 160 → t.pixel x y = composedPixel s y (layerSprites s y) x) ∧
      (∀ r j, ¬(r = .fb ∧ 640 * y ≤ j ∧ j < 640 * y + 640) → t.memRead r j = s.memRead r j) ∧
      t.winLine = nextWinLine s y ∧ SameRegisters s (t.setWinLine s.winLine))

/-- 42_background.md rules R231, R233, R234, R235: with the window and the sprites off, the row is the background at the
scrolled coordinates modulo 256, white when `DMG` has `BG_EN = 0`. -/
def Obligations.BackgroundRow : Prop :=
  ∀ (s : State) (y : Nat), y = (s.ioByte 0x44).toNat → y < 144 → (s.ioByte 0x40).getLsbD 5 = false →
    (s.ioByte 0x40).getLsbD 1 = false →
    ∃ t, exec .renderScanline s = .next t ∧ ∀ x, x < 160 → t.pixel x y = BackgroundColor s y x

/-- 42_background.md rules R236 to R240: the window's skip test, its columns, its internal line and `WIN_LINE`, with the sprites off. -/
def Obligations.WindowRow : Prop :=
  ∀ (s : State) (y : Nat), y = (s.ioByte 0x44).toNat → y < 144 → (s.ioByte 0x40).getLsbD 1 = false →
    ∃ t, exec .renderScanline s = .next t ∧
      (WindowSkipped s y → t.winLine = s.winLine ∧ ∀ x, x < 160 → t.pixel x y = BackgroundColor s y x) ∧
      (¬WindowSkipped s y → t.winLine = some (InternalLine s y) ∧
        (∀ x, x < (s.ioByte 0x4B).toNat - 7 → t.pixel x y = BackgroundColor s y x) ∧
        ∀ x, (s.ioByte 0x4B).toNat - 7 ≤ x → x < 160 → t.pixel x y =
          (layerPixel s ((s.ioByte 0x40).getLsbD 6) (x - ((s.ioByte 0x4B).toNat - 7)) (InternalLine s y % 256)).color)

/-- 42_background.md rule R232, 30_encoding.md rules R103, R104: the pixel of a map table at a map-space pixel, from the bytes of its
cell: on `CGB` the flips, the bank, the palette and the priority bit of the metadata byte; the tile number is the index byte,
unsigned with `TILE_SEL = 1`, signed and from 256 without. -/
def Obligations.LayerPixelLookup : Prop :=
  (∀ (s : State) (m : Bool) (px py off : Nat) (cell : Byte) (ci : BitVec 2), px < 256 → py < 256 →
    off = 1024 * m.toNat + 32 * (py / 8) + px / 8 → cell = s.memRead (.map .bank1) off →
    (s.cfg.variant = .cgb →
      ci = tilePixel s (if cell.getLsbD 3 then .bank1 else .bank0) (bgTile s (s.memRead (.map .bank0) off))
        (if cell.getLsbD 6 then 7 - py % 8 else py % 8) (if cell.getLsbD 5 then 7 - px % 8 else px % 8) →
      layerPixel s m px py = ⟨ci, cgbColor s .bgpram (cell.toNat % 8) ci, cell.getLsbD 7⟩) ∧
    (s.cfg.variant = .dmg → ci = tilePixel s .bank0 (bgTile s (s.memRead (.map .bank0) off)) (py % 8) (px % 8) →
      layerPixel s m px py = ⟨ci, dmgColor s (s.ioByte 0x47) ci, false⟩)) ∧
  ∀ (s : State) (idx : Byte),
    ((s.ioByte 0x40).getLsbD 4 = true → bgTile s idx = idx.toNat) ∧
    ((s.ioByte 0x40).getLsbD 4 = false → idx.toNat < 128 → bgTile s idx = 256 + idx.toNat) ∧
    ((s.ioByte 0x40).getLsbD 4 = false → 128 ≤ idx.toNat → bgTile s idx = idx.toNat) ∧ bgTile s idx < 384

/-- 30_encoding.md rule R102: the color index of column `c` of row `r` of a tile, from the two planes of the row. -/
def Obligations.TilePixelPlanes : Prop :=
  ∀ (s : State) (b : Bank) (t r c : Nat), c < 8 →
    (tilePixel s b t r c).toNat =
      (s.memRead (.tile b) (16 * t + 2 * r)).toNat / 2 ^ (7 - c) % 2 +
        2 * ((s.memRead (.tile b) (16 * t + 2 * r + 1)).toNat / 2 ^ (7 - c) % 2)

/-- 00_scope.md rule R10: the compositors compute every index inside its region: the cell of a map-space pixel, the two bytes of a
background, window or sprite tile row, the four bytes of a sprite, the two bytes of a palette entry that a map cell or a sprite
names, and the four bytes of a pixel of `FB`. -/
def Obligations.CompositorIndicesInside : Prop :=
  (∀ (m : Bool) (px py : Nat), px < 256 → py < 256 → cellOffset m px py < Region.size (.map .bank0)) ∧
  (∀ (s : State) (idx : Byte) (f : Bool) (py : Nat), 16 * bgTile s idx + 2 * flip7 f (py % 8) + 1 < Region.size (.tile .bank0)) ∧
  (∀ k, k < 40 → 4 * k + 3 < Region.size .oam) ∧
  (∀ (b : Byte) (ci : BitVec 2), 8 * metaPal b + 2 * ci.toNat + 1 < Region.size .bgpram ∧
    8 * attrCgbPal b + 2 * ci.toNat + 1 < Region.size .obpram) ∧
  (∀ x y, x < 160 → y < 144 → 4 * (160 * y + x) + 3 < Region.size .fb) ∧
  ∀ (s : State) (y k : Nat), k < 40 → qualifies s y (s.sprite k) = true →
    16 * spriteTile s y (s.sprite k) + 2 * (spriteRow s y (s.sprite k) % 8) + 1 < Region.size (.tile .bank0) ∧
      spriteRow s y (s.sprite k) < spriteHeight s

/-- 43_sprites.md rules R262, R263, R264: the drawn set of a row is the qualifying sprites, on `DMG` the 10 of highest priority, in
strict priority order. -/
def Obligations.DrawnSpriteSet : Prop :=
  ∀ (s : State) (y : Nat),
    (∀ sp, sp ∈ drawnSprites s y ↔ ∃ k, sp = s.sprite k ∧ InDrawnSet s y k) ∧
    (drawnSprites s y).Pairwise (fun a b => HigherPriority s a.index b.index)

/-- 43_sprites.md rules R271, R272: the pixel at a column is that of the highest-priority drawn sprite that covers it opaquely and
passes the background test; where there is none, or the layer is off, the background or window pixel stays. The line buffers it is
tested against are those of 42_background.md rules R230, R234, R235, R238. -/
def Obligations.SpritePriority : Prop :=
  (∀ (s : State) (y x : Nat), underPixel s y x = LineBuffers s y x) ∧
  ∀ (s : State) (y : Nat), y = (s.ioByte 0x44).toNat → y < 144 →
    ∃ t, exec .renderScanline s = .next t ∧ ∀ x, x < 160 →
      ((s.ioByte 0x40).getLsbD 1 = false → t.pixel x y = (LineBuffers s y x).color) ∧
      ((∀ k, InDrawnSet s y k → ¬ShowsAt s y x k) → t.pixel x y = (LineBuffers s y x).color) ∧
      ∀ k, (s.ioByte 0x40).getLsbD 1 = true → InDrawnSet s y k → ShowsAt s y x k →
        (∀ j, InDrawnSet s y j → ShowsAt s y x j → ¬HigherPriority s j k) →
        t.pixel x y = spriteColor s (s.sprite k) (spriteCi s y (s.sprite k) x)

/-- 43_sprites.md rule R270: the background test, case by case. -/
def Obligations.BackgroundTest : Prop :=
  ∀ (s : State) (sp : Sprite) (under : LayerPixel),
    (s.cfg.variant = .cgb → (s.ioByte 0x40).getLsbD 0 = false → passes s sp under = true) ∧
    (s.cfg.variant = .cgb → (s.ioByte 0x40).getLsbD 0 = true → under.prio = true → passes s sp under = false) ∧
    (s.cfg.variant = .dmg ∨ ((s.ioByte 0x40).getLsbD 0 = true ∧ under.prio = false) →
      (passes s sp under = true ↔ sp.attr.getLsbD 7 = false ∨ under.ci = 0))

/-- 43_sprites.md rules R261, R265, R266, R267: the color index of a sprite pixel, from the bytes of the sprite and its tile: the flips,
the half of a 16-row sprite after the vertical flip, the bank on `CGB` only; and its color, by the palette its attributes name. -/
def Obligations.SpritePixelFetch : Prop :=
  (∀ (s : State) (k : Nat) (ci : BitVec 2),
    (s.cfg.variant = .cgb →
      spriteColor s (s.sprite k) ci = cgbColor s .obpram ((s.memRead .oam (4 * k + 3)).toNat % 8) ci) ∧
    (s.cfg.variant = .dmg →
      spriteColor s (s.sprite k) ci =
        dmgColor s (if (s.memRead .oam (4 * k + 3)).getLsbD 4 then s.ioByte 0x49 else s.ioByte 0x48) ci)) ∧
  ∀ (s : State) (y x k r c tile : Nat), k < 40 → QualifiesOn s y k →
    (s.memRead .oam (4 * k + 1)).toNat ≤ x + 8 → x < (s.memRead .oam (4 * k + 1)).toNat →
    r = (if (s.memRead .oam (4 * k + 3)).getLsbD 6 then
        (if (s.ioByte 0x40).getLsbD 2 then 16 else 8) - 1 - (y + 16 - (s.memRead .oam (4 * k)).toNat)
      else y + 16 - (s.memRead .oam (4 * k)).toNat) →
    c = (if (s.memRead .oam (4 * k + 3)).getLsbD 5 then 7 - (x + 8 - (s.memRead .oam (4 * k + 1)).toNat)
      else x + 8 - (s.memRead .oam (4 * k + 1)).toNat) →
    tile = (if (s.ioByte 0x40).getLsbD 2 then
        (s.memRead .oam (4 * k + 2)).toNat / 2 * 2 + (if r < 8 then 0 else 1)
      else (s.memRead .oam (4 * k + 2)).toNat) →
    spriteCi s y (s.sprite k) x =
      tilePixel s (if s.cfg.variant = .cgb ∧ (s.memRead .oam (4 * k + 3)).getLsbD 3 = true then .bank1 else .bank0) tile (r % 8) c

/-- What a render depends on (42_background.md rule R242, 43_sprites.md rule R268, 70_reset_and_hazards.md rule R378): two states
with the same render inputs give the same row and the same `WIN_LINE`, whatever their `VRAM_BANK`, position, mode, STAT, LYC, other
`IO` bytes and, on `DMG`, bank 1 and the color palettes hold. -/
def Obligations.RenderDependsOnInputsOnly : Prop :=
  ∀ s s' : State, SameRenderInputs s s' → (s.ioByte 0x44).toNat < 144 →
    ∃ t t', exec .renderScanline s = .next t ∧ exec .renderScanline s' = .next t' ∧ t'.winLine = t.winLine ∧
      ∀ x, x < 160 → t'.pixel x (s.ioByte 0x44).toNat = t.pixel x (s.ioByte 0x44).toNat

/-! ## Pseudo-transactions -/

/-- 30_encoding.md rule R101 (its last sentence is derived by the spec): on `CGB`, the three steps of `BGCOL p, c, rgb` set color
`c` of palette `p` of the background palette RAM and leave the index register at `0x80 | ((8p + 2c + 2) mod 64)`. -/
def Obligations.BgcolSetsPaletteEntry : Prop :=
  ∀ (s : State) (p c : Nat) (rgb : BitVec 16), s.cfg.variant = .cgb → s.fault = none → p < 8 → c < 4 →
    ∃ t, Sys2Proof.core.run 3 (s.setPending ((pseudoBgcol p c rgb).map Transaction.word)) = .next t ∧
      t.memRead .bgpram (8 * p + 2 * c + 1) ++ t.memRead .bgpram (8 * p + 2 * c) = rgb ∧
      (t.ioByte 0x68).toNat = 0x80 + (8 * p + 2 * c + 2) % 64 ∧ t.pending = [] ∧
      ∀ j, j ≠ 8 * p + 2 * c → j ≠ 8 * p + 2 * c + 1 → t.memRead .bgpram j = s.memRead .bgpram j

/-- 30_encoding.md rules R101, R105: the four steps of `SPRITE n, y, x, tile, attr` make sprite `n` of the object table these four
bytes and leave every other byte of it. -/
def Obligations.SpriteSetsTableEntry : Prop :=
  ∀ (s : State) (n : Nat) (y x tile attr : Byte), s.fault = none → n < 40 →
    ∃ t, Sys2Proof.core.run 4 (s.setPending ((pseudoSprite n y x tile attr).map Transaction.word)) = .next t ∧
      t.sprite n = ⟨n, y, x, tile, attr⟩ ∧ t.pending = [] ∧ ∀ k, k ≠ n → t.sprite k = s.sprite k
end

