-- ==== Sys2Proof/Laws/Decode.lean ====
section
/-!
SUPPORT. The fields of a word as arithmetic, the words of the transactions as numbers, and that the fields of a transaction's
word give the transaction back.
-/

namespace Sys2Proof

@[simp] theorem decodeBov_encodeBov (bov : BankOverride) : decodeBov (encodeBov bov) = some bov := by
  rcases bov with _ | _ | _ <;> rfl

theorem encodeBov_of_decodeBov {b : BitVec 2} {bov : BankOverride} (h : decodeBov b = some bov) : encodeBov bov = b := by
  revert h; revert b
  rcases bov with _ | _ | _ <;> decide

/-- A field is a quotient and a remainder. -/
theorem toNat_field (w : Word) (lo n : Nat) : (field w lo n).toNat = w.toNat / 2 ^ lo % 2 ^ n := by
  simp [field, Nat.shiftRight_eq_div_pow]

theorem field_eq_iff {w : Word} {lo n : Nat} {x : BitVec n} : field w lo n = x ↔ w.toNat / 2 ^ lo % 2 ^ n = x.toNat := by
  rw [BitVec.toNat_eq, toNat_field]

/-- Concatenation is addition of disjoint digits. -/
theorem toNat_append_add {m n : Nat} (x : BitVec m) (y : BitVec n) : (x ++ y).toNat = x.toNat * 2 ^ n + y.toNat := by
  rw [BitVec.toNat_append, ← Nat.shiftLeft_add_eq_or_of_lt y.isLt, Nat.shiftLeft_eq]

theorem toNat_encodeRead (a : Addr) (bov : BankOverride) :
    (encodeRead a bov).toNat = 0x10000000 + (encodeBov bov).toNat * 0x4000000 + a.toNat := by
  simp only [encodeRead, toNat_append_add]
  simp
  omega

theorem toNat_encodeWrite (a : Addr) (v : Byte) : (encodeWrite a v).toNat = 0x20000000 + v.toNat * 0x10000 + a.toNat := by
  simp only [encodeWrite, toNat_append_add]
  simp
  omega

/-- The operands of a transaction fit the fields of its word (30_encoding.md rule R93). -/
def Transaction.fits : Transaction → Prop
  | .update n => n < 2 ^ 28
  | .selectSyspal c => c < 256
  | _ => True

theorem decodeFields_encodeRead (a : Addr) (bov : BankOverride) :
    decodeFields (encodeRead a bov) = .ok (.read a bov) := by
  have hw := toNat_encodeRead a bov
  have hb : (encodeBov bov).toNat < 4 := (encodeBov bov).isLt
  have ha := a.isLt
  have h1 : field (encodeRead a bov) 28 4 = 0x1#4 := by rw [field_eq_iff, hw]; simp; omega
  have h2 : field (encodeRead a bov) 26 2 = encodeBov bov := by rw [field_eq_iff, hw]; omega
  have h3 : field (encodeRead a bov) 16 10 = 0#10 := by rw [field_eq_iff, hw]; simp; omega
  have h4 : field (encodeRead a bov) 0 16 = a := by rw [field_eq_iff, hw]; omega
  simp [decodeFields, h1, h2, h3, h4]

theorem decodeFields_encodeWrite (a : Addr) (v : Byte) : decodeFields (encodeWrite a v) = .ok (.write a v) := by
  have hw := toNat_encodeWrite a v
  have hv := v.isLt
  have ha := a.isLt
  have h1 : field (encodeWrite a v) 28 4 = 0x2#4 := by rw [field_eq_iff, hw]; simp; omega
  have h2 : field (encodeWrite a v) 24 4 = 0#4 := by rw [field_eq_iff, hw]; simp; omega
  have h3 : field (encodeWrite a v) 16 8 = v := by rw [field_eq_iff, hw]; omega
  have h4 : field (encodeWrite a v) 0 16 = a := by rw [field_eq_iff, hw]; omega
  simp [decodeFields, h1, h2, h3, h4]

theorem decodeFields_update {n : Nat} (h : n < 2 ^ 28) :
    decodeFields (Transaction.update n).word = .ok (.update n) := by
  have hw : (Transaction.update n).word.toNat = 0x30000000 + n := by
    simp only [Transaction.word, toNat_append_add]; simp; omega
  have h1 : field (Transaction.update n).word 28 4 = 0x3#4 := by rw [field_eq_iff, hw]; simp; omega
  have h2 : (field (Transaction.update n).word 0 28).toNat = n := by rw [toNat_field, hw]; omega
  simp [decodeFields, h1, h2]

theorem decodeFields_selectSyspal {c : Nat} (h : c < 256) :
    decodeFields (Transaction.selectSyspal c).word = .ok (.selectSyspal c) := by
  have hw : (Transaction.selectSyspal c).word.toNat = 0x70000000 + c := by
    simp only [Transaction.word, toNat_append_add]; simp; omega
  have h1 : field (Transaction.selectSyspal c).word 28 4 = 0x7#4 := by rw [field_eq_iff, hw]; simp; omega
  have h2 : field (Transaction.selectSyspal c).word 8 20 = 0#20 := by rw [field_eq_iff, hw]; simp; omega
  have h3 : (field (Transaction.selectSyspal c).word 0 8).toNat = c := by rw [toNat_field, hw]; omega
  simp [decodeFields, h1, h2, h3]

/-- The word of a transaction whose operands fit gives the transaction back. -/
theorem decodeFields_word (t : Transaction) (h : t.fits) : decodeFields t.word = .ok t := by
  cases t with
  | read a bov => exact decodeFields_encodeRead a bov
  | write a v => exact decodeFields_encodeWrite a v
  | update n => exact decodeFields_update h
  | renderScanline => decide
  | renderScreen => decide
  | getMode => decide
  | selectSyspal c => exact decodeFields_selectSyspal h

/-! ## Named registers and regions -/

theorem isTile_iff {a : Addr} : a.isTile = true ↔ 0x8000 ≤ a.toNat ∧ a.toNat ≤ 0x97FF := by simp [Addr.isTile]
theorem isMap_iff {a : Addr} : a.isMap = true ↔ 0x9800 ≤ a.toNat ∧ a.toNat ≤ 0x9FFF := by simp [Addr.isMap]
theorem isOam_iff {a : Addr} : a.isOam = true ↔ 0xFE00 ≤ a.toNat ∧ a.toNat ≤ 0xFE9F := by simp [Addr.isOam]
theorem isIo_iff {a : Addr} : a.isIo = true ↔ 0xFF00 ≤ a.toNat ∧ a.toNat ≤ 0xFF7F := by simp [Addr.isIo]
theorem isNamed_iff {a : Addr} : a.isNamed = true ↔
    (0xFF40 ≤ a.toNat ∧ a.toNat ≤ 0xFF45) ∨ (0xFF47 ≤ a.toNat ∧ a.toNat ≤ 0xFF4B) ∨ a.toNat = 0xFF4F ∨
      (0xFF68 ≤ a.toNat ∧ a.toNat ≤ 0xFF6B) := by simp [Addr.isNamed, or_assoc]
theorem isPlainIo_iff {a : Addr} : a.isPlainIo = true ↔ a.isIo = true ∧ ¬a.isNamed = true := by simp [Addr.isPlainIo]
theorem isUnmapped_iff {a : Addr} :
    a.isUnmapped = true ↔ ¬a.isTile = true ∧ ¬a.isMap = true ∧ ¬a.isOam = true ∧ ¬a.isIo = true := by
  simp [Addr.isUnmapped, and_assoc]

theorem findRow_some {rows : List NamedRow} {a : Addr} {r : NamedRow} (h : findRow rows a = some r) : r ∈ rows ∧ r.1 = a := by
  induction rows with
  | nil => simp [findRow] at h
  | cons e rows ih =>
    simp only [findRow] at h
    split at h
    · rename_i he
      cases h
      exact ⟨List.mem_cons_self .., he⟩
    · exact ⟨List.mem_cons_of_mem _ (ih h).1, (ih h).2⟩

theorem findRow_none {rows : List NamedRow} {a : Addr} (h : findRow rows a = none) : a ∉ rows.map (·.1) := by
  induction rows with
  | nil => simp
  | cons e rows ih =>
    simp only [findRow] at h
    split at h
    · cases h
    · rename_i he
      simp only [List.map_cons, List.mem_cons, not_or]
      exact ⟨fun hc => he hc.symm, ih h⟩

/-- The addresses of the rows are the named addresses. -/
theorem mem_namedRows_iff {a : Addr} : a ∈ namedRows.map (·.1) ↔ a.isNamed = true := by
  simp only [namedRows, lcdRows, colorRows, List.map_cons, List.map_nil, List.cons_append, List.nil_append,
    List.mem_cons, List.not_mem_nil, or_false, isNamed_iff, BitVec.toNat_eq, BitVec.toNat_ofNat, BitVec.ofNat_eq_ofNat]
  omega

/-- Each row's instructions are the transactions at its address. -/
theorem namedRows_transaction {r : NamedRow} (h : r ∈ namedRows) (bov : BankOverride) (v : Byte) :
    (r.2.1 bov).transaction = .read r.1 bov ∧ (r.2.2 v).transaction = .write r.1 v ∧ (r.2.1 bov).wf = true ∧
      (r.2.2 v).wf = true := by
  simp only [namedRows, lcdRows, colorRows, List.cons_append, List.nil_append, List.mem_cons, List.not_mem_nil, or_false] at h
  rcases h with rfl | rfl | rfl | rfl | rfl | rfl | rfl | rfl | rfl | rfl | rfl | rfl | rfl | rfl | rfl | rfl <;>
    exact ⟨rfl, rfl, rfl, rfl⟩

theorem findRow_namedRows_none {a : Addr} (h : findRow namedRows a = none) : ¬a.isNamed = true :=
  fun hn => findRow_none h (mem_namedRows_iff.2 hn)

/-- The READ mnemonic of an address, and only it, is the READ of that address. -/
theorem readMnemonic_spec (a : Addr) (bov : BankOverride) :
    (readMnemonic a bov).transaction = .read a bov ∧ (readMnemonic a bov).wf = true := by
  unfold readMnemonic
  split
  · rename_i r h
    obtain ⟨hm, rfl⟩ := findRow_some h
    exact ⟨(namedRows_transaction hm bov 0).1, (namedRows_transaction hm bov 0).2.2.1⟩
  · rename_i h
    have hn := findRow_namedRows_none h
    split_ifs with h1 h2 h3 h4
    · exact ⟨rfl, h1⟩
    · exact ⟨rfl, h2⟩
    · exact ⟨rfl, h3⟩
    · exact ⟨rfl, isPlainIo_iff.2 ⟨h4, hn⟩⟩
    · exact ⟨rfl, isUnmapped_iff.2 ⟨h1, h2, h3, h4⟩⟩

/-- The WRITE mnemonic of an address, and only it, is the WRITE of that address. -/
theorem writeMnemonic_spec (a : Addr) (v : Byte) :
    (writeMnemonic a v).transaction = .write a v ∧ (writeMnemonic a v).wf = true := by
  unfold writeMnemonic
  split
  · rename_i r h
    obtain ⟨hm, rfl⟩ := findRow_some h
    exact ⟨(namedRows_transaction hm none v).2.1, (namedRows_transaction hm none v).2.2.2⟩
  · rename_i h
    have hn := findRow_namedRows_none h
    split_ifs with h1 h2 h3 h4
    · exact ⟨rfl, h1⟩
    · exact ⟨rfl, h2⟩
    · exact ⟨rfl, h3⟩
    · exact ⟨rfl, isPlainIo_iff.2 ⟨h4, hn⟩⟩
    · exact ⟨rfl, isUnmapped_iff.2 ⟨h1, h2, h3, h4⟩⟩

theorem findRow_eq_none_of_not_named {a : Addr} (h : ¬a.isNamed = true) : findRow namedRows a = none := by
  rcases hf : findRow namedRows a with _ | r
  · rfl
  · obtain ⟨hm, rfl⟩ := findRow_some hf
    exact absurd (mem_namedRows_iff.1 (List.mem_map_of_mem hm)) h

/-- A tile address decodes into the tile mnemonics. -/
theorem mnemonic_of_isTile {a : Addr} (h : a.isTile = true) (bov : BankOverride) (v : Byte) :
    readMnemonic a bov = .rdTile a bov ∧ writeMnemonic a v = .wrTile a v := by
  have hn : ¬a.isNamed = true := by rw [isNamed_iff]; rw [isTile_iff] at h; omega
  simp only [readMnemonic, writeMnemonic, findRow_eq_none_of_not_named hn, h, if_true, and_self]

/-- A map address decodes into the map mnemonics. -/
theorem mnemonic_of_isMap {a : Addr} (h : a.isMap = true) (bov : BankOverride) (v : Byte) :
    readMnemonic a bov = .rdMap a bov ∧ writeMnemonic a v = .wrMap a v := by
  have hn : ¬a.isNamed = true := by rw [isNamed_iff]; rw [isMap_iff] at h; omega
  have h1 : ¬a.isTile = true := by rw [isTile_iff]; rw [isMap_iff] at h; omega
  simp only [readMnemonic, writeMnemonic, findRow_eq_none_of_not_named hn, h, h1, if_true, Bool.false_eq_true, if_false, and_self]

/-- An object table address decodes into the object table mnemonics. -/
theorem mnemonic_of_isOam {a : Addr} (h : a.isOam = true) (bov : BankOverride) (v : Byte) :
    readMnemonic a bov = .rdOam a bov ∧ writeMnemonic a v = .wrOam a v := by
  have hn : ¬a.isNamed = true := by rw [isNamed_iff]; rw [isOam_iff] at h; omega
  have h1 : ¬a.isTile = true := by rw [isTile_iff]; rw [isOam_iff] at h; omega
  have h2 : ¬a.isMap = true := by rw [isMap_iff]; rw [isOam_iff] at h; omega
  simp only [readMnemonic, writeMnemonic, findRow_eq_none_of_not_named hn, h, h1, h2, if_true, Bool.false_eq_true, if_false, and_self]

/-- A plain I/O address decodes into the plain I/O mnemonics. -/
theorem mnemonic_of_isPlainIo {a : Addr} (h : a.isPlainIo = true) (bov : BankOverride) (v : Byte) :
    readMnemonic a bov = .rdIo a bov ∧ writeMnemonic a v = .wrIo a v := by
  obtain ⟨hi, hn⟩ := isPlainIo_iff.1 h
  have h1 : ¬a.isTile = true := by rw [isTile_iff]; rw [isIo_iff] at hi; omega
  have h2 : ¬a.isMap = true := by rw [isMap_iff]; rw [isIo_iff] at hi; omega
  have h3 : ¬a.isOam = true := by rw [isOam_iff]; rw [isIo_iff] at hi; omega
  simp only [readMnemonic, writeMnemonic, findRow_eq_none_of_not_named hn, hi, h1, h2, h3, if_true, Bool.false_eq_true, if_false,
    and_self]

/-- An unmapped address decodes into the unmapped mnemonics. -/
theorem mnemonic_of_isUnmapped {a : Addr} (h : a.isUnmapped = true) (bov : BankOverride) (v : Byte) :
    readMnemonic a bov = .rdUnmapped a bov ∧ writeMnemonic a v = .wrUnmapped a v := by
  obtain ⟨h1, h2, h3, h4⟩ := isUnmapped_iff.1 h
  have hn : ¬a.isNamed = true := by rw [isNamed_iff]; rw [isIo_iff] at h4; omega
  simp only [readMnemonic, writeMnemonic, findRow_eq_none_of_not_named hn, h1, h2, h3, h4, Bool.false_eq_true, if_false, and_self]

/-- A well-formed instruction is what its transaction decodes into. -/
theorem transaction_instr {i : Instr} (h : i.wf = true) : i.transaction.instr = i := by
  cases i <;> first
    | rfl
    | exact (mnemonic_of_isTile h _ 0).1 | exact (mnemonic_of_isTile h none _).2
    | exact (mnemonic_of_isMap h _ 0).1 | exact (mnemonic_of_isMap h none _).2
    | exact (mnemonic_of_isOam h _ 0).1 | exact (mnemonic_of_isOam h none _).2
    | exact (mnemonic_of_isPlainIo h _ 0).1 | exact (mnemonic_of_isPlainIo h none _).2
    | exact (mnemonic_of_isUnmapped h _ 0).1 | exact (mnemonic_of_isUnmapped h none _).2

/-- A well-formed instruction's operands fit its word. -/
theorem transaction_fits {i : Instr} (h : i.wf = true) : i.transaction.fits := by
  cases i <;> first | trivial | simpa [Instr.wf, Instr.transaction, Transaction.fits] using h

/-- Every transaction of a word decodes into a well-formed instruction with the same transaction. -/
theorem instr_spec {t : Transaction} (h : t.fits) : t.instr.transaction = t ∧ t.instr.wf = true := by
  cases t with
  | read a bov => exact readMnemonic_spec a bov
  | write a v => exact writeMnemonic_spec a v
  | update n => exact ⟨rfl, decide_eq_true h⟩
  | renderScanline => exact ⟨rfl, rfl⟩
  | renderScreen => exact ⟨rfl, rfl⟩
  | getMode => exact ⟨rfl, rfl⟩
  | selectSyspal c => exact ⟨rfl, decide_eq_true h⟩

end Sys2Proof
end

