-- ==== Sys2Proof/Laws/Memory.lean ====
section
/-!
SUPPORT. The laws of one memory: a read after a store, and that a store keeps the canonical form.
-/

namespace Sys2Proof.Machine

@[simp] theorem Memory.read_nil (d : Byte) (a : Nat) : Memory.read d [] a = d := rfl

theorem Memory.read_of_not_listed {d : Byte} {m : Memory} {a : Nat} (h : ∀ c ∈ m, c.1 ≠ a) : Memory.read d m a = d := by
  induction m with
  | nil => rfl
  | cons c m ih =>
    have hc : c.1 ≠ a := h c (by simp)
    simp only [Memory.read, hc, if_false]
    exact ih fun e he => h e (by simp [he])

/-- Reading a joined list: the first part answers where it lists the offset. -/
theorem Memory.read_append_left {d : Byte} {m k : Memory} {a : Nat} (h : ∀ c ∈ k, c.1 ≠ a) :
    Memory.read d (m ++ k) a = Memory.read d m a := by
  induction m with
  | nil => exact Memory.read_of_not_listed h
  | cons c m ih => simp only [List.cons_append, Memory.read, ih]

theorem Memory.read_append_right {d : Byte} {m k : Memory} {a : Nat} (h : ∀ c ∈ m, c.1 ≠ a) :
    Memory.read d (m ++ k) a = Memory.read d k a := by
  induction m with
  | nil => rfl
  | cons c m ih =>
    have hc : c.1 ≠ a := h c (by simp)
    simp only [List.cons_append, Memory.read, hc, if_false]
    exact ih fun e he => h e (by simp [he])

theorem Memory.read_filter {d : Byte} {m : Memory} {a : Nat} {p : Host.Cell → Bool} (h : ∀ v, p (a, v) = true) :
    Memory.read d (m.filter p) a = Memory.read d m a := by
  induction m with
  | nil => rfl
  | cons c m ih =>
    by_cases hc : c.1 = a
    · have : p c = true := by rw [← Prod.eta c, hc]; exact h _
      simp [this, Memory.read, hc]
    · rcases hp : p c with _ | _ <;> simp [hp, Memory.read, hc, ih]

theorem Memory.cells_range {d : Byte} {vs : List Byte} {a : Nat} {c : Host.Cell} (h : c ∈ Memory.cells d a vs) :
    a ≤ c.1 ∧ c.1 < a + vs.length ∧ c.2 ≠ d := by
  induction vs generalizing a with
  | nil => simp [Memory.cells] at h
  | cons v vs ih =>
    simp only [Memory.cells] at h
    split at h
    · have := ih h; simp only [List.length_cons]; exact ⟨by omega, by omega, this.2.2⟩
    · rename_i hv
      rcases List.mem_cons.1 h with rfl | h
      · simp [hv]
      · have := ih h; simp only [List.length_cons]; exact ⟨by omega, by omega, this.2.2⟩

theorem Memory.cells_sorted (d : Byte) (vs : List Byte) (a : Nat) :
    (Memory.cells d a vs).Pairwise (fun c e => c.1 < e.1) := by
  induction vs generalizing a with
  | nil => exact List.Pairwise.nil
  | cons v vs ih =>
    simp only [Memory.cells]
    split
    · exact ih _
    · exact List.Pairwise.cons (fun c hc => (Memory.cells_range hc).1) (ih _)

theorem Memory.read_cells {d : Byte} {vs : List Byte} {a i : Nat} (h : i < vs.length) :
    Memory.read d (Memory.cells d a vs) (a + i) = vs[i] := by
  induction vs generalizing a i with
  | nil => simp at h
  | cons v vs ih =>
    simp only [Memory.cells]
    cases i with
    | zero =>
      split
      · rename_i hv
        rw [Memory.read_of_not_listed]
        · simp [hv]
        · intro c hc; have := (Memory.cells_range hc).1; omega
      · simp [Memory.read]
    | succ i =>
      have h' : i < vs.length := by simpa using h
      have e : a + (i + 1) = a + 1 + i := by omega
      rw [e]
      split
      · simpa using ih h'
      · have : a ≠ a + 1 + i := by omega
        simpa [Memory.read, this] using ih h'

/-- A stored byte reads back. -/
theorem Memory.read_writeBlock_inside {d : Byte} {m : Memory} {base i : Nat} {vs : List Byte} (h : i < vs.length) :
    Memory.read d (Memory.writeBlock d m base vs) (base + i) = vs[i] := by
  unfold Memory.writeBlock
  rw [Memory.read_append_right, Memory.read_append_left, Memory.read_cells h]
  · intro c hc; have := List.mem_filter.1 hc; simp at this; omega
  · intro c hc; have := List.mem_filter.1 hc; simp at this; omega

/-- A byte outside the stored ones reads as before. -/
theorem Memory.read_writeBlock_outside {d : Byte} {m : Memory} {base a : Nat} {vs : List Byte}
    (h : a < base ∨ base + vs.length ≤ a) : Memory.read d (Memory.writeBlock d m base vs) a = Memory.read d m a := by
  unfold Memory.writeBlock
  rcases h with h | h
  · rw [Memory.read_append_left, Memory.read_filter]
    · intro v; simpa using h
    · intro c hc
      rcases List.mem_append.1 hc with hc | hc
      · have := (Memory.cells_range hc).1; omega
      · have := List.mem_filter.1 hc; simp at this; omega
  · rw [Memory.read_append_right, Memory.read_append_right, Memory.read_filter]
    · intro v; simpa using h
    · intro c hc; have := (Memory.cells_range hc).2.1; omega
    · intro c hc; have := List.mem_filter.1 hc; simp at this; omega

@[simp] theorem Memory.read_write_same (d : Byte) (m : Memory) (a : Nat) (v : Byte) :
    Memory.read d (Memory.write d m a v) a = v :=
  Memory.read_writeBlock_inside (i := 0) (by simp)

theorem Memory.read_write_ne {d : Byte} {m : Memory} {a b : Nat} {v : Byte} (h : b ≠ a) :
    Memory.read d (Memory.write d m a v) b = Memory.read d m b :=
  Memory.read_writeBlock_outside (by simp only [List.length_singleton]; omega)

/-- A store inside the memory keeps the canonical form. -/
theorem Memory.writeBlock_wf {d : Byte} {n : Nat} {m : Memory} {base : Nat} {vs : List Byte} (hm : Memory.wf d n m)
    (hb : base + vs.length ≤ n) : Memory.wf d n (Memory.writeBlock d m base vs) := by
  refine ⟨?_, ?_⟩
  · unfold Memory.writeBlock
    refine List.pairwise_append.2 ⟨hm.1.filter _, List.pairwise_append.2 ⟨Memory.cells_sorted d vs base, hm.1.filter _, ?_⟩, ?_⟩
    · intro c hc e he
      have := (Memory.cells_range hc).2.1
      have := List.mem_filter.1 he
      simp at this; omega
    · intro c hc e he
      have h1 := List.mem_filter.1 hc
      rcases List.mem_append.1 he with he | he
      · have := (Memory.cells_range he).1; simp at h1; omega
      · have h2 := List.mem_filter.1 he; simp at h1 h2; omega
  · intro c hc
    unfold Memory.writeBlock at hc
    rcases List.mem_append.1 hc with hc | hc
    · exact hm.2 c (List.mem_filter.1 hc).1
    · rcases List.mem_append.1 hc with hc | hc
      · have := Memory.cells_range hc; exact ⟨by omega, this.2.2⟩
      · exact hm.2 c (List.mem_filter.1 hc).1

theorem Memory.write_wf {d : Byte} {n : Nat} {m : Memory} {a : Nat} {v : Byte} (hm : Memory.wf d n m) (ha : a < n) :
    Memory.wf d n (Memory.write d m a v) :=
  Memory.writeBlock_wf hm (by simp only [List.length_singleton]; omega)

/-- Canonical memories that read alike are equal. -/
theorem Memory.ext_of_wf {d : Byte} {n : Nat} {m k : Memory} (hm : Memory.wf d n m) (hk : Memory.wf d n k)
    (h : ∀ a, Memory.read d m a = Memory.read d k a) : m = k := by
  induction m generalizing k with
  | nil =>
    cases k with
    | nil => rfl
    | cons c k =>
      have := h c.1
      simp only [Memory.read, if_true] at this
      exact absurd this.symm (hk.2 c (by simp)).2
  | cons c m ih =>
    have hc := hm.2 c (by simp)
    cases k with
    | nil =>
      have := h c.1
      simp only [Memory.read, if_true] at this
      exact absurd this hc.2
    | cons e k =>
      have he := hk.2 e (by simp)
      have hms := List.pairwise_cons.1 hm.1
      have hks := List.pairwise_cons.1 hk.1
      have below : ∀ {c : Host.Cell} {m : Memory} {a : Nat}, (∀ x ∈ m, c.1 < x.1) → a ≤ c.1 → Memory.read d m a = d :=
        fun hx ha => Memory.read_of_not_listed fun x hxm => by have := hx x hxm; omega
      have hkey : c.1 = e.1 := by
        rcases Nat.lt_trichotomy c.1 e.1 with hlt | heq | hgt
        · have := h c.1
          have hne : e.1 ≠ c.1 := by omega
          simp only [Memory.read, if_true, hne, if_false, below hks.1 (Nat.le_of_lt hlt)] at this
          exact absurd this hc.2
        · exact heq
        · have := h e.1
          have hne : c.1 ≠ e.1 := by omega
          simp only [Memory.read, if_true, hne, if_false, below hms.1 (Nat.le_of_lt hgt)] at this
          exact absurd this.symm he.2
      have hval : c.2 = e.2 := by
        have := h c.1
        simpa [Memory.read, hkey] using this
      have htail : m = k := by
        refine ih ⟨hms.2, fun x hx => hm.2 x (by simp [hx])⟩ ⟨hks.2, fun x hx => hk.2 x (by simp [hx])⟩ fun a => ?_
        by_cases ha : c.1 = a
        · rw [below hms.1 (by omega), below hks.1 (by omega)]
        · have := h a
          have ha' : e.1 ≠ a := by omega
          simpa [Memory.read, ha, ha'] using this
      rw [htail, Prod.ext hkey hval]

end Sys2Proof.Machine
end

