-- ==== Sys2Proof/Laws/State.lean ====
section
/-!
SUPPORT. One lemma per field per update of `State`, so that no proof unfolds a record update. A memory is read through
`State.region`, `State.memRead` and `State.ioByte`.
-/

namespace Sys2Proof.Machine

variable (s : State)

@[simp] theorem State.setResponse_cfg (x : Response) : (s.setResponse x).cfg = s.cfg := rfl
@[simp] theorem State.setResponse_dot (x : Response) : (s.setResponse x).dot = s.dot := rfl
@[simp] theorem State.setResponse_line (x : Response) : (s.setResponse x).line = s.line := rfl
@[simp] theorem State.setResponse_mode (x : Response) : (s.setResponse x).mode = s.mode := rfl
@[simp] theorem State.setResponse_vramBank (x : Response) : (s.setResponse x).vramBank = s.vramBank := rfl
@[simp] theorem State.setResponse_winLine (x : Response) : (s.setResponse x).winLine = s.winLine := rfl
@[simp] theorem State.setResponse_syspalSel (x : Response) : (s.setResponse x).syspalSel = s.syspalSel := rfl
@[simp] theorem State.setResponse_fault (x : Response) : (s.setResponse x).fault = s.fault := rfl
@[simp] theorem State.setResponse_pending (x : Response) : (s.setResponse x).pending = s.pending := rfl
@[simp] theorem State.setResponse_response (x : Response) : (s.setResponse x).response = x := rfl
@[simp] theorem State.setResponse_region (x : Response) (r : Region) : (s.setResponse x).region r = s.region r := by
  rcases r with ⟨_ | _⟩ | ⟨_ | _⟩ | _ | _ | _ | _ | _ <;> rfl
@[simp] theorem State.setResponse_memRead (x : Response) (r : Region) (i : Nat) : (s.setResponse x).memRead r i = s.memRead r i := by
  simp [State.memRead]
@[simp] theorem State.setResponse_ioByte (x : Response) (i : Nat) : (s.setResponse x).ioByte i = s.ioByte i := by
  simp [State.ioByte]

@[simp] theorem State.setFault_cfg (x : Option Fault) : (s.setFault x).cfg = s.cfg := rfl
@[simp] theorem State.setFault_dot (x : Option Fault) : (s.setFault x).dot = s.dot := rfl
@[simp] theorem State.setFault_line (x : Option Fault) : (s.setFault x).line = s.line := rfl
@[simp] theorem State.setFault_mode (x : Option Fault) : (s.setFault x).mode = s.mode := rfl
@[simp] theorem State.setFault_vramBank (x : Option Fault) : (s.setFault x).vramBank = s.vramBank := rfl
@[simp] theorem State.setFault_winLine (x : Option Fault) : (s.setFault x).winLine = s.winLine := rfl
@[simp] theorem State.setFault_syspalSel (x : Option Fault) : (s.setFault x).syspalSel = s.syspalSel := rfl
@[simp] theorem State.setFault_fault (x : Option Fault) : (s.setFault x).fault = x := rfl
@[simp] theorem State.setFault_pending (x : Option Fault) : (s.setFault x).pending = s.pending := rfl
@[simp] theorem State.setFault_response (x : Option Fault) : (s.setFault x).response = s.response := rfl
@[simp] theorem State.setFault_region (x : Option Fault) (r : Region) : (s.setFault x).region r = s.region r := by
  rcases r with ⟨_ | _⟩ | ⟨_ | _⟩ | _ | _ | _ | _ | _ <;> rfl
@[simp] theorem State.setFault_memRead (x : Option Fault) (r : Region) (i : Nat) : (s.setFault x).memRead r i = s.memRead r i := by
  simp [State.memRead]
@[simp] theorem State.setFault_ioByte (x : Option Fault) (i : Nat) : (s.setFault x).ioByte i = s.ioByte i := by
  simp [State.ioByte]

@[simp] theorem State.setVramBank_cfg (x : Bank) : (s.setVramBank x).cfg = s.cfg := rfl
@[simp] theorem State.setVramBank_dot (x : Bank) : (s.setVramBank x).dot = s.dot := rfl
@[simp] theorem State.setVramBank_line (x : Bank) : (s.setVramBank x).line = s.line := rfl
@[simp] theorem State.setVramBank_mode (x : Bank) : (s.setVramBank x).mode = s.mode := rfl
@[simp] theorem State.setVramBank_vramBank (x : Bank) : (s.setVramBank x).vramBank = x := rfl
@[simp] theorem State.setVramBank_winLine (x : Bank) : (s.setVramBank x).winLine = s.winLine := rfl
@[simp] theorem State.setVramBank_syspalSel (x : Bank) : (s.setVramBank x).syspalSel = s.syspalSel := rfl
@[simp] theorem State.setVramBank_fault (x : Bank) : (s.setVramBank x).fault = s.fault := rfl
@[simp] theorem State.setVramBank_pending (x : Bank) : (s.setVramBank x).pending = s.pending := rfl
@[simp] theorem State.setVramBank_response (x : Bank) : (s.setVramBank x).response = s.response := rfl
@[simp] theorem State.setVramBank_region (x : Bank) (r : Region) : (s.setVramBank x).region r = s.region r := by
  rcases r with ⟨_ | _⟩ | ⟨_ | _⟩ | _ | _ | _ | _ | _ <;> rfl
@[simp] theorem State.setVramBank_memRead (x : Bank) (r : Region) (i : Nat) : (s.setVramBank x).memRead r i = s.memRead r i := by
  simp [State.memRead]
@[simp] theorem State.setVramBank_ioByte (x : Bank) (i : Nat) : (s.setVramBank x).ioByte i = s.ioByte i := by
  simp [State.ioByte]

@[simp] theorem State.setWinLine_cfg (x : Option Nat) : (s.setWinLine x).cfg = s.cfg := rfl
@[simp] theorem State.setWinLine_dot (x : Option Nat) : (s.setWinLine x).dot = s.dot := rfl
@[simp] theorem State.setWinLine_line (x : Option Nat) : (s.setWinLine x).line = s.line := rfl
@[simp] theorem State.setWinLine_mode (x : Option Nat) : (s.setWinLine x).mode = s.mode := rfl
@[simp] theorem State.setWinLine_vramBank (x : Option Nat) : (s.setWinLine x).vramBank = s.vramBank := rfl
@[simp] theorem State.setWinLine_winLine (x : Option Nat) : (s.setWinLine x).winLine = x := rfl
@[simp] theorem State.setWinLine_syspalSel (x : Option Nat) : (s.setWinLine x).syspalSel = s.syspalSel := rfl
@[simp] theorem State.setWinLine_fault (x : Option Nat) : (s.setWinLine x).fault = s.fault := rfl
@[simp] theorem State.setWinLine_pending (x : Option Nat) : (s.setWinLine x).pending = s.pending := rfl
@[simp] theorem State.setWinLine_response (x : Option Nat) : (s.setWinLine x).response = s.response := rfl
@[simp] theorem State.setWinLine_region (x : Option Nat) (r : Region) : (s.setWinLine x).region r = s.region r := by
  rcases r with ⟨_ | _⟩ | ⟨_ | _⟩ | _ | _ | _ | _ | _ <;> rfl
@[simp] theorem State.setWinLine_memRead (x : Option Nat) (r : Region) (i : Nat) : (s.setWinLine x).memRead r i = s.memRead r i := by
  simp [State.memRead]
@[simp] theorem State.setWinLine_ioByte (x : Option Nat) (i : Nat) : (s.setWinLine x).ioByte i = s.ioByte i := by
  simp [State.ioByte]

@[simp] theorem State.setSyspalSel_cfg (x : Nat) : (s.setSyspalSel x).cfg = s.cfg := rfl
@[simp] theorem State.setSyspalSel_dot (x : Nat) : (s.setSyspalSel x).dot = s.dot := rfl
@[simp] theorem State.setSyspalSel_line (x : Nat) : (s.setSyspalSel x).line = s.line := rfl
@[simp] theorem State.setSyspalSel_mode (x : Nat) : (s.setSyspalSel x).mode = s.mode := rfl
@[simp] theorem State.setSyspalSel_vramBank (x : Nat) : (s.setSyspalSel x).vramBank = s.vramBank := rfl
@[simp] theorem State.setSyspalSel_winLine (x : Nat) : (s.setSyspalSel x).winLine = s.winLine := rfl
@[simp] theorem State.setSyspalSel_syspalSel (x : Nat) : (s.setSyspalSel x).syspalSel = x := rfl
@[simp] theorem State.setSyspalSel_fault (x : Nat) : (s.setSyspalSel x).fault = s.fault := rfl
@[simp] theorem State.setSyspalSel_pending (x : Nat) : (s.setSyspalSel x).pending = s.pending := rfl
@[simp] theorem State.setSyspalSel_response (x : Nat) : (s.setSyspalSel x).response = s.response := rfl
@[simp] theorem State.setSyspalSel_region (x : Nat) (r : Region) : (s.setSyspalSel x).region r = s.region r := by
  rcases r with ⟨_ | _⟩ | ⟨_ | _⟩ | _ | _ | _ | _ | _ <;> rfl
@[simp] theorem State.setSyspalSel_memRead (x : Nat) (r : Region) (i : Nat) : (s.setSyspalSel x).memRead r i = s.memRead r i := by
  simp [State.memRead]
@[simp] theorem State.setSyspalSel_ioByte (x : Nat) (i : Nat) : (s.setSyspalSel x).ioByte i = s.ioByte i := by
  simp [State.ioByte]

@[simp] theorem State.setFsm_cfg (d : Fin 456) (l : Fin 154) (m : Mode) : (s.setFsm d l m).cfg = s.cfg := rfl
@[simp] theorem State.setFsm_dot (d : Fin 456) (l : Fin 154) (m : Mode) : (s.setFsm d l m).dot = d := rfl
@[simp] theorem State.setFsm_line (d : Fin 456) (l : Fin 154) (m : Mode) : (s.setFsm d l m).line = l := rfl
@[simp] theorem State.setFsm_mode (d : Fin 456) (l : Fin 154) (m : Mode) : (s.setFsm d l m).mode = m := rfl
@[simp] theorem State.setFsm_vramBank (d : Fin 456) (l : Fin 154) (m : Mode) : (s.setFsm d l m).vramBank = s.vramBank := rfl
@[simp] theorem State.setFsm_winLine (d : Fin 456) (l : Fin 154) (m : Mode) : (s.setFsm d l m).winLine = s.winLine := rfl
@[simp] theorem State.setFsm_syspalSel (d : Fin 456) (l : Fin 154) (m : Mode) : (s.setFsm d l m).syspalSel = s.syspalSel := rfl
@[simp] theorem State.setFsm_fault (d : Fin 456) (l : Fin 154) (m : Mode) : (s.setFsm d l m).fault = s.fault := rfl
@[simp] theorem State.setFsm_pending (d : Fin 456) (l : Fin 154) (m : Mode) : (s.setFsm d l m).pending = s.pending := rfl
@[simp] theorem State.setFsm_response (d : Fin 456) (l : Fin 154) (m : Mode) : (s.setFsm d l m).response = s.response := rfl
@[simp] theorem State.setFsm_region (d : Fin 456) (l : Fin 154) (m : Mode) (r : Region) : (s.setFsm d l m).region r = s.region r := by
  rcases r with ⟨_ | _⟩ | ⟨_ | _⟩ | _ | _ | _ | _ | _ <;> rfl
@[simp] theorem State.setFsm_memRead (d : Fin 456) (l : Fin 154) (m : Mode) (r : Region) (i : Nat) : (s.setFsm d l m).memRead r i = s.memRead r i := by
  simp [State.memRead]
@[simp] theorem State.setFsm_ioByte (d : Fin 456) (l : Fin 154) (m : Mode) (i : Nat) : (s.setFsm d l m).ioByte i = s.ioByte i := by
  simp [State.ioByte]

@[simp] theorem State.setPending_cfg (x : List Word) : (s.setPending x).cfg = s.cfg := rfl
@[simp] theorem State.setPending_dot (x : List Word) : (s.setPending x).dot = s.dot := rfl
@[simp] theorem State.setPending_line (x : List Word) : (s.setPending x).line = s.line := rfl
@[simp] theorem State.setPending_mode (x : List Word) : (s.setPending x).mode = s.mode := rfl
@[simp] theorem State.setPending_vramBank (x : List Word) : (s.setPending x).vramBank = s.vramBank := rfl
@[simp] theorem State.setPending_winLine (x : List Word) : (s.setPending x).winLine = s.winLine := rfl
@[simp] theorem State.setPending_syspalSel (x : List Word) : (s.setPending x).syspalSel = s.syspalSel := rfl
@[simp] theorem State.setPending_fault (x : List Word) : (s.setPending x).fault = s.fault := rfl
@[simp] theorem State.setPending_pending (x : List Word) : (s.setPending x).pending = x := rfl
@[simp] theorem State.setPending_response (x : List Word) : (s.setPending x).response = s.response := rfl
@[simp] theorem State.setPending_region (x : List Word) (r : Region) : (s.setPending x).region r = s.region r := by
  rcases r with ⟨_ | _⟩ | ⟨_ | _⟩ | _ | _ | _ | _ | _ <;> rfl
@[simp] theorem State.setPending_memRead (x : List Word) (r : Region) (i : Nat) : (s.setPending x).memRead r i = s.memRead r i := by
  simp [State.memRead]
@[simp] theorem State.setPending_ioByte (x : List Word) (i : Nat) : (s.setPending x).ioByte i = s.ioByte i := by
  simp [State.ioByte]

/-! ## Storing into a region -/

@[simp] theorem State.setRegion_cfg (r : Region) (m : Memory) : (s.setRegion r m).cfg = s.cfg := by
  rcases r with ⟨_ | _⟩ | ⟨_ | _⟩ | _ | _ | _ | _ | _ <;> rfl
@[simp] theorem State.setRegion_dot (r : Region) (m : Memory) : (s.setRegion r m).dot = s.dot := by
  rcases r with ⟨_ | _⟩ | ⟨_ | _⟩ | _ | _ | _ | _ | _ <;> rfl
@[simp] theorem State.setRegion_line (r : Region) (m : Memory) : (s.setRegion r m).line = s.line := by
  rcases r with ⟨_ | _⟩ | ⟨_ | _⟩ | _ | _ | _ | _ | _ <;> rfl
@[simp] theorem State.setRegion_mode (r : Region) (m : Memory) : (s.setRegion r m).mode = s.mode := by
  rcases r with ⟨_ | _⟩ | ⟨_ | _⟩ | _ | _ | _ | _ | _ <;> rfl
@[simp] theorem State.setRegion_vramBank (r : Region) (m : Memory) : (s.setRegion r m).vramBank = s.vramBank := by
  rcases r with ⟨_ | _⟩ | ⟨_ | _⟩ | _ | _ | _ | _ | _ <;> rfl
@[simp] theorem State.setRegion_winLine (r : Region) (m : Memory) : (s.setRegion r m).winLine = s.winLine := by
  rcases r with ⟨_ | _⟩ | ⟨_ | _⟩ | _ | _ | _ | _ | _ <;> rfl
@[simp] theorem State.setRegion_syspalSel (r : Region) (m : Memory) : (s.setRegion r m).syspalSel = s.syspalSel := by
  rcases r with ⟨_ | _⟩ | ⟨_ | _⟩ | _ | _ | _ | _ | _ <;> rfl
@[simp] theorem State.setRegion_fault (r : Region) (m : Memory) : (s.setRegion r m).fault = s.fault := by
  rcases r with ⟨_ | _⟩ | ⟨_ | _⟩ | _ | _ | _ | _ | _ <;> rfl
@[simp] theorem State.setRegion_pending (r : Region) (m : Memory) : (s.setRegion r m).pending = s.pending := by
  rcases r with ⟨_ | _⟩ | ⟨_ | _⟩ | _ | _ | _ | _ | _ <;> rfl
@[simp] theorem State.setRegion_response (r : Region) (m : Memory) : (s.setRegion r m).response = s.response := by
  rcases r with ⟨_ | _⟩ | ⟨_ | _⟩ | _ | _ | _ | _ | _ <;> rfl

@[simp] theorem State.setRegion_region_same (r : Region) (m : Memory) : (s.setRegion r m).region r = m := by
  rcases r with ⟨_ | _⟩ | ⟨_ | _⟩ | _ | _ | _ | _ | _ <;> rfl

theorem State.setRegion_region_ne {r r' : Region} (h : r' ≠ r) (m : Memory) : (s.setRegion r m).region r' = s.region r' := by
  rcases r with ⟨_ | _⟩ | ⟨_ | _⟩ | _ | _ | _ | _ | _ <;> rcases r' with ⟨_ | _⟩ | ⟨_ | _⟩ | _ | _ | _ | _ | _ <;>
    first | rfl | exact absurd rfl h

@[simp] theorem State.memWrite_cfg (r : Region) (i : Nat) (v : Byte) : (s.memWrite r i v).cfg = s.cfg := by
  simp [State.memWrite]
@[simp] theorem State.memWrite_dot (r : Region) (i : Nat) (v : Byte) : (s.memWrite r i v).dot = s.dot := by
  simp [State.memWrite]
@[simp] theorem State.memWrite_line (r : Region) (i : Nat) (v : Byte) : (s.memWrite r i v).line = s.line := by
  simp [State.memWrite]
@[simp] theorem State.memWrite_mode (r : Region) (i : Nat) (v : Byte) : (s.memWrite r i v).mode = s.mode := by
  simp [State.memWrite]
@[simp] theorem State.memWrite_vramBank (r : Region) (i : Nat) (v : Byte) : (s.memWrite r i v).vramBank = s.vramBank := by
  simp [State.memWrite]
@[simp] theorem State.memWrite_winLine (r : Region) (i : Nat) (v : Byte) : (s.memWrite r i v).winLine = s.winLine := by
  simp [State.memWrite]
@[simp] theorem State.memWrite_syspalSel (r : Region) (i : Nat) (v : Byte) : (s.memWrite r i v).syspalSel = s.syspalSel := by
  simp [State.memWrite]
@[simp] theorem State.memWrite_fault (r : Region) (i : Nat) (v : Byte) : (s.memWrite r i v).fault = s.fault := by
  simp [State.memWrite]
@[simp] theorem State.memWrite_pending (r : Region) (i : Nat) (v : Byte) : (s.memWrite r i v).pending = s.pending := by
  simp [State.memWrite]
@[simp] theorem State.memWrite_response (r : Region) (i : Nat) (v : Byte) : (s.memWrite r i v).response = s.response := by
  simp [State.memWrite]

@[simp] theorem State.setIo_cfg (i : Nat) (v : Byte) : (s.setIo i v).cfg = s.cfg := by
  simp [State.setIo, State.memWrite]
@[simp] theorem State.setIo_dot (i : Nat) (v : Byte) : (s.setIo i v).dot = s.dot := by
  simp [State.setIo, State.memWrite]
@[simp] theorem State.setIo_line (i : Nat) (v : Byte) : (s.setIo i v).line = s.line := by
  simp [State.setIo, State.memWrite]
@[simp] theorem State.setIo_mode (i : Nat) (v : Byte) : (s.setIo i v).mode = s.mode := by
  simp [State.setIo, State.memWrite]
@[simp] theorem State.setIo_vramBank (i : Nat) (v : Byte) : (s.setIo i v).vramBank = s.vramBank := by
  simp [State.setIo, State.memWrite]
@[simp] theorem State.setIo_winLine (i : Nat) (v : Byte) : (s.setIo i v).winLine = s.winLine := by
  simp [State.setIo, State.memWrite]
@[simp] theorem State.setIo_syspalSel (i : Nat) (v : Byte) : (s.setIo i v).syspalSel = s.syspalSel := by
  simp [State.setIo, State.memWrite]
@[simp] theorem State.setIo_fault (i : Nat) (v : Byte) : (s.setIo i v).fault = s.fault := by
  simp [State.setIo, State.memWrite]
@[simp] theorem State.setIo_pending (i : Nat) (v : Byte) : (s.setIo i v).pending = s.pending := by
  simp [State.setIo, State.memWrite]
@[simp] theorem State.setIo_response (i : Nat) (v : Byte) : (s.setIo i v).response = s.response := by
  simp [State.setIo, State.memWrite]

@[simp] theorem State.setRow_cfg (y : Nat) (row : List Rgba) : (s.setRow y row).cfg = s.cfg := by
  simp [State.setRow]
@[simp] theorem State.setRow_dot (y : Nat) (row : List Rgba) : (s.setRow y row).dot = s.dot := by
  simp [State.setRow]
@[simp] theorem State.setRow_line (y : Nat) (row : List Rgba) : (s.setRow y row).line = s.line := by
  simp [State.setRow]
@[simp] theorem State.setRow_mode (y : Nat) (row : List Rgba) : (s.setRow y row).mode = s.mode := by
  simp [State.setRow]
@[simp] theorem State.setRow_vramBank (y : Nat) (row : List Rgba) : (s.setRow y row).vramBank = s.vramBank := by
  simp [State.setRow]
@[simp] theorem State.setRow_winLine (y : Nat) (row : List Rgba) : (s.setRow y row).winLine = s.winLine := by
  simp [State.setRow]
@[simp] theorem State.setRow_syspalSel (y : Nat) (row : List Rgba) : (s.setRow y row).syspalSel = s.syspalSel := by
  simp [State.setRow]
@[simp] theorem State.setRow_fault (y : Nat) (row : List Rgba) : (s.setRow y row).fault = s.fault := by
  simp [State.setRow]
@[simp] theorem State.setRow_pending (y : Nat) (row : List Rgba) : (s.setRow y row).pending = s.pending := by
  simp [State.setRow]
@[simp] theorem State.setRow_response (y : Nat) (row : List Rgba) : (s.setRow y row).response = s.response := by
  simp [State.setRow]

/-- Two states with the same regions and the same registers are one state. -/
theorem State.ext_of_regions {s t : State} (hr : ∀ r, t.region r = s.region r) (hc : t.cfg = s.cfg) (hd : t.dot = s.dot)
    (hl : t.line = s.line) (hm : t.mode = s.mode) (hv : t.vramBank = s.vramBank) (hw : t.winLine = s.winLine)
    (hy : t.syspalSel = s.syspalSel) (hf : t.fault = s.fault) (hp : t.pending = s.pending) (ha : t.response = s.response) :
    t = s := by
  have h0 := hr (.tile .bank0)
  have h1 := hr (.tile .bank1)
  have h2 := hr (.map .bank0)
  have h3 := hr (.map .bank1)
  have h4 := hr .oam
  have h5 := hr .bgpram
  have h6 := hr .obpram
  have h7 := hr .io
  have h8 := hr .fb
  cases s; cases t
  simp only [State.region] at h0 h1 h2 h3 h4 h5 h6 h7 h8
  simp_all

end Sys2Proof.Machine
end

