-- ==== Sys2Proof/Laws/Ops.lean ====
section
/-!
SUPPORT. What each shared operation does, said once: the bytes of a region after a store, a row of the frame buffer, the
answers of the common READ and WRITE, the VRAM access and the fault outcome, and that a store keeps the memories' form.
-/

namespace Sys2Proof.Machine

variable (s : State)

@[simp] theorem memRead_memWrite_same (r : Region) (i : Nat) (v : Byte) : (s.memWrite r i v).memRead r i = v := by
  simp [State.memRead, State.memWrite]

theorem memRead_memWrite_ne {r r' : Region} {i i' : Nat} {v : Byte} (h : ¬(r' = r ∧ i' = i)) :
    (s.memWrite r i v).memRead r' i' = s.memRead r' i' := by
  by_cases hr : r' = r
  · subst hr
    have hi : i' ≠ i := fun hi => h ⟨rfl, hi⟩
    simp [State.memRead, State.memWrite, Memory.read_write_ne hi]
  · simp [State.memRead, State.memWrite, State.setRegion_region_ne s hr]

theorem memWrite_region_ne {r r' : Region} {i : Nat} {v : Byte} (h : r' ≠ r) :
    (s.memWrite r i v).region r' = s.region r' := by
  simp [State.memWrite, State.setRegion_region_ne s h]

@[simp] theorem ioByte_setIo_same (i : Nat) (v : Byte) : (s.setIo i v).ioByte i = v := by
  simp [State.ioByte, State.setIo]

theorem ioByte_setIo_ne {i j : Nat} {v : Byte} (h : j ≠ i) : (s.setIo i v).ioByte j = s.ioByte j :=
  memRead_memWrite_ne s (by simp [h])

theorem memRead_setIo_ne {r : Region} {i j : Nat} {v : Byte} (h : ¬(r = .io ∧ j = i)) :
    (s.setIo i v).memRead r j = s.memRead r j :=
  memRead_memWrite_ne s h

theorem ioByte_memWrite_ne {r : Region} {i j : Nat} {v : Byte} (h : ¬(r = .io ∧ i = j)) :
    (s.memWrite r i v).ioByte j = s.ioByte j :=
  memRead_memWrite_ne s (by rintro ⟨rfl, rfl⟩; exact h ⟨rfl, rfl⟩)

@[simp] theorem ioByte_eq_memRead (i : Nat) : s.memRead .io i = s.ioByte i := rfl

/-- A store of a byte is seen at that byte only. -/
theorem stores_memWrite (r : Region) (i : Nat) (v : Byte) : Stores s ((s.memWrite r i v).setResponse .none) r i v := by
  refine ⟨rfl, by simp, by simp [SameRegisters], fun r' i' h => ?_⟩
  rw [State.setResponse_memRead, memRead_memWrite_ne s h]

/-- The common READ answers the byte. -/
theorem readByte_eq (r : Region) (i : Nat) : readByte r i s = .next (s.setResponse (.byte (s.memRead r i))) := rfl

/-- The common WRITE stores the byte. -/
theorem writeByte_eq (r : Region) (i : Nat) (v : Byte) :
    writeByte r i v s = .next ((s.memWrite r i v).setResponse .none) := rfl

theorem answers_setResponse (resp : Response) : Answers s (s.setResponse resp) resp := by
  refine ⟨rfl, by simp [SameRegisters], fun r i => by simp⟩

/-- The fault outcome of rule R330. -/
theorem raiseFault_eq (f : Fault) : raiseFault f s = .next ((s.setFault (some f)).setResponse .none) := rfl

/-- A VRAM access either meets the contract violation or goes to its bank. -/
theorem withVram_cases (a : Addr) (bov : BankOverride) (access : Bank → Result) :
    (s.cfg.variant = .dmg ∧ effBank s bov = .bank1 ∧
        withVram a bov s access = .next ((s.setFault (some (.dmgNonZeroBank a))).setResponse .none)) ∨
      (¬(s.cfg.variant = .dmg ∧ effBank s bov = .bank1) ∧ withVram a bov s access = access (effBank s bov)) := by
  unfold withVram
  rcases hb : effBank s bov with _ | _ <;> rcases hv : s.cfg.variant with _ | _ <;> simp [raiseFault_eq]

/-- A store inside a region keeps every memory canonical. -/
theorem memWrite_keeps_wf {s : State} {r : Region} {i : Nat} {v : Byte}
    (h : ∀ r', Memory.wf r'.unlisted r'.size (s.region r')) (hi : i < r.size) (r' : Region) :
    Memory.wf r'.unlisted r'.size ((s.memWrite r i v).region r') := by
  by_cases hr : r' = r
  · subst hr
    rw [State.memWrite, State.setRegion_region_same]
    exact Memory.write_wf (h r') hi
  · rw [memWrite_region_ne s hr]
    exact h r'

/-! ## The frame buffer -/

theorem length_flatMap_rgbaBytes (row : List Rgba) : (row.flatMap rgbaBytes).length = 4 * row.length := by
  induction row with
  | nil => rfl
  | cons c row ih => simp [rgbaBytes, ih]; omega

/-- Byte `k` of pixel `x` of a row laid out in bytes. -/
theorem getElem_flatMap_rgbaBytes {row : List Rgba} {x k : Nat} (hx : x < row.length) (hk : k < 4) :
    (row.flatMap rgbaBytes)[4 * x + k]'(by rw [length_flatMap_rgbaBytes]; omega) =
      (rgbaBytes row[x])[k]'(by simp [rgbaBytes]; omega) := by
  induction row generalizing x with
  | nil => simp at hx
  | cons c row ih =>
    cases x with
    | zero =>
      have hk' : k < (rgbaBytes c).length := by simp [rgbaBytes]; omega
      simp only [List.flatMap_cons, Nat.mul_zero, Nat.zero_add, List.getElem_cons_zero]
      rw [List.getElem_append_left hk']
    | succ x =>
      have hx' : x < row.length := by simpa using hx
      have hl : (rgbaBytes c).length = 4 := rfl
      simp only [List.flatMap_cons, List.getElem_cons_succ]
      rw [List.getElem_append_right (by omega), ← ih hx']
      congr 1
      omega

/-- A byte of the stored row. -/
theorem memRead_setRow_inside {y x k : Nat} {row : List Rgba} (hx : x < row.length) (hk : k < 4) :
    (s.setRow y row).memRead .fb (4 * (160 * y + x) + k) = (rgbaBytes row[x])[k]'(by simp [rgbaBytes]; omega) := by
  have e : 4 * (160 * y + x) + k = 4 * (160 * y) + (4 * x + k) := by omega
  have hlen : 4 * x + k < (row.flatMap rgbaBytes).length := by rw [length_flatMap_rgbaBytes]; omega
  rw [State.memRead, State.setRow, State.setRegion_region_same, e, Memory.read_writeBlock_inside hlen,
    getElem_flatMap_rgbaBytes hx hk]

/-- A pixel of the stored row reads back. -/
theorem pixel_setRow_inside {y x : Nat} {row : List Rgba} (hx : x < row.length) : (s.setRow y row).pixel x y = row[x] := by
  have h : ∀ k (hk : k < 4), _ := fun k hk => memRead_setRow_inside s (y := y) (k := k) hx hk
  have h0 := h 0 (by omega)
  have h1 := h 1 (by omega)
  have h2 := h 2 (by omega)
  have h3 := h 3 (by omega)
  simp only [rgbaBytes, Nat.add_zero, List.getElem_cons_zero, List.getElem_cons_succ] at h0 h1 h2 h3
  simp only [State.pixel, h0, h1, h2, h3]

/-- Storing a row touches the frame buffer only. -/
theorem setRow_region_ne {r : Region} {y : Nat} {row : List Rgba} (h : r ≠ .fb) : (s.setRow y row).region r = s.region r := by
  rw [State.setRow, State.setRegion_region_ne s h]

/-- Storing a row touches the row's bytes only. -/
theorem memRead_setRow_outside {r : Region} {y i : Nat} {row : List Rgba}
    (h : ¬(r = .fb ∧ 4 * (160 * y) ≤ i ∧ i < 4 * (160 * y) + 4 * row.length)) :
    (s.setRow y row).memRead r i = s.memRead r i := by
  by_cases hr : r = .fb
  · subst hr
    rw [State.memRead, State.setRow, State.setRegion_region_same, Memory.read_writeBlock_outside]
    · rfl
    · rw [length_flatMap_rgbaBytes]
      by_cases h1 : i < 4 * (160 * y)
      · exact .inl h1
      · exact .inr (by by_contra h2; exact h ⟨rfl, by omega, by omega⟩)
  · rw [State.memRead, setRow_region_ne s hr, State.memRead]

@[simp] theorem ioByte_setRow (y : Nat) (row : List Rgba) (k : Nat) : (s.setRow y row).ioByte k = s.ioByte k :=
  memRead_setRow_outside s (by simp)

/-- Storing a whole row of a visible line keeps every memory canonical. -/
theorem setRow_keeps_wf {s : State} {y : Nat} {row : List Rgba}
    (h : ∀ r, Memory.wf r.unlisted r.size (s.region r)) (hy : y < 144) (hrow : row.length = 160) (r : Region) :
    Memory.wf r.unlisted r.size ((s.setRow y row).region r) := by
  by_cases hr : r = .fb
  · subst hr
    rw [State.setRow, State.setRegion_region_same]
    refine Memory.writeBlock_wf (h .fb) ?_
    rw [length_flatMap_rgbaBytes, hrow]
    simp only [Region.size]
    omega
  · rw [setRow_region_ne s hr]
    exact h r

end Sys2Proof.Machine
end

