-- ==== Sys2Proof/Laws/Flags.lean ====
section
/-!
SUPPORT. The bits of STAT after each of its three writers, the palette index as arithmetic, and what the scanline counter and a
state machine step leave of the state.
-/

namespace Sys2Proof.Machine

/-! ## STAT -/

/-- `STAT.MODE` after it is written. -/
@[simp] theorem statSetMode_mode (stat : Byte) (m : Mode) : (statSetMode stat m).extractLsb' 0 2 = modeId m := by
  revert stat; rcases m <;> decide

theorem toNat_statSetMode (stat : Byte) (m : Mode) : (statSetMode stat m).toNat = stat.toNat / 4 * 4 + (modeId m).toNat := by
  have := stat.isLt
  rw [statSetMode, toNat_append_add]
  simp [Nat.shiftRight_eq_div_pow]
  omega

theorem getLsbD_statSetMode {stat : Byte} {m : Mode} {k : Nat} (hk : 2 ≤ k) :
    (statSetMode stat m).getLsbD k = stat.getLsbD k := by
  rw [statSetMode, BitVec.getLsbD_append]
  have h1 : ¬k < 2 := by omega
  simp only [h1, if_false, BitVec.getLsbD_extractLsb', show 2 + (k - 2) = k by omega]
  by_cases h2 : k - 2 < 6
  · simp [h2]
  · simp only [h2, decide_false, Bool.false_and]
    exact (BitVec.getLsbD_of_ge stat k (by omega)).symm

/-- `STAT.LYC_EQ` after it is written. -/
@[simp] theorem statSetLycEq_lycEq (stat : Byte) (b : Bool) : (statSetLycEq stat b).getLsbD 2 = b := by
  revert stat; rcases b <;> decide

theorem getLsbD_statSetLycEq {stat : Byte} {b : Bool} {k : Nat} (hk : k ≠ 2) :
    (statSetLycEq stat b).getLsbD k = stat.getLsbD k := by
  by_cases h8 : k < 8
  · revert stat; rcases b <;> rcases (by omega : k = 0 ∨ k = 1 ∨ k = 3 ∨ k = 4 ∨ k = 5 ∨ k = 6 ∨ k = 7) with
      rfl | rfl | rfl | rfl | rfl | rfl | rfl <;> decide
  · rw [BitVec.getLsbD_of_ge _ _ (by omega), BitVec.getLsbD_of_ge _ _ (by omega)]

/-- A bus write of STAT keeps the flags and writes the rest (41_bus_access.md rule R169). -/
theorem getLsbD_statBusWrite (stat v : Byte) (k : Nat) :
    (statBusWrite stat v).getLsbD k = if k < 3 then stat.getLsbD k else v.getLsbD k := by
  by_cases h8 : k < 8
  · rcases (by omega : k = 0 ∨ k = 1 ∨ k = 2 ∨ k = 3 ∨ k = 4 ∨ k = 5 ∨ k = 6 ∨ k = 7) with
      rfl | rfl | rfl | rfl | rfl | rfl | rfl | rfl <;> simp [statBusWrite]
  · rw [if_neg (by omega), BitVec.getLsbD_of_ge _ _ (by omega), BitVec.getLsbD_of_ge _ _ (by omega)]

@[simp] theorem statBusWrite_mode (stat v : Byte) : (statBusWrite stat v).extractLsb' 0 2 = stat.extractLsb' 0 2 := by
  apply BitVec.eq_of_getLsbD_eq
  intro i hi
  simp only [BitVec.getLsbD_extractLsb', getLsbD_statBusWrite, Nat.zero_add, if_pos (show i < 3 by omega)]

/-! ## The palette index -/

theorem palIndex_eq (p : Byte) : palIndex p = p.toNat % 64 := by simp [palIndex]

theorem palIndex_lt (p : Byte) : palIndex p < 64 := by rw [palIndex_eq]; omega

theorem palAutoInc_eq (p : Byte) : palAutoInc p = decide (128 ≤ p.toNat) := by revert p; decide

theorem toNat_palAdvance (p : Byte) :
    (palAdvance p).toNat = if 128 ≤ p.toNat then p.toNat / 64 * 64 + (p.toNat % 64 + 1) % 64 else p.toNat := by
  revert p; decide

/-! ## The scanline counter and the state machine step -/

variable (s : State)

theorem toNat_lineByte (l : Fin 154) : (lineByte l).toNat = l.val := by
  have := l.isLt
  simp only [lineByte, BitVec.toNat_ofNat]
  omega

theorem lineByte_eq_iff {l : Fin 154} {v : Byte} : lineByte l = v ↔ l.val = v.toNat := by
  rw [BitVec.toNat_eq, toNat_lineByte]

/-- The scanline counter leaves every register but `WIN_LINE`. -/
theorem scanlineUpdate_registers : SameRegisters s ((scanlineUpdate s).setWinLine s.winLine) := by
  unfold scanlineUpdate
  split <;> simp [SameRegisters, State.setIo]

theorem scanlineUpdate_memRead {r : Region} {k : Nat} (h : ¬(r = .io ∧ (k = 0x41 ∨ k = 0x44))) :
    (scanlineUpdate s).memRead r k = s.memRead r k := by
  unfold scanlineUpdate
  split
  · rfl
  · rw [State.setWinLine_memRead, memRead_setIo_ne _ (by tauto), memRead_setIo_ne _ (by tauto)]

theorem scanlineUpdate_ly : (scanlineUpdate s).ly = lineByte s.line := by
  unfold scanlineUpdate
  split
  · exact Eq.symm ‹_›
  · simp [State.ly, ioByte_setIo_ne _ (show 0x44 ≠ 0x41 by decide)]

theorem scanlineUpdate_stat :
    (scanlineUpdate s).stat = if lineByte s.line = s.ly then s.stat else statSetLycEq s.stat (lineByte s.line == s.lyc) := by
  unfold scanlineUpdate
  split <;> simp [State.stat]

theorem scanlineUpdate_winLine :
    (scanlineUpdate s).winLine = if lineByte s.line = s.ly then s.winLine else if lineByte s.line = 0 then none else s.winLine := by
  unfold scanlineUpdate
  split <;> simp

theorem scanlineUpdate_keeps_wf {s : State} (h : ∀ r, Memory.wf r.unlisted r.size (s.region r)) (r : Region) :
    Memory.wf r.unlisted r.size ((scanlineUpdate s).region r) := by
  unfold scanlineUpdate
  split
  · exact h r
  · rw [State.setWinLine_region]
    exact memWrite_keeps_wf (memWrite_keeps_wf h (by decide)) (by decide) r

@[simp] theorem fsmAdvance_region (n : Nat) (r : Region) : (fsmAdvance s n).region r = s.region r := by simp [fsmAdvance]
@[simp] theorem fsmAdvance_memRead (n : Nat) (r : Region) (k : Nat) : (fsmAdvance s n).memRead r k = s.memRead r k := by
  simp [fsmAdvance]
@[simp] theorem fsmAdvance_ioByte (n k : Nat) : (fsmAdvance s n).ioByte k = s.ioByte k := by simp [fsmAdvance]
@[simp] theorem fsmAdvance_cfg (n : Nat) : (fsmAdvance s n).cfg = s.cfg := rfl
@[simp] theorem fsmAdvance_dot (n : Nat) : (fsmAdvance s n).dot = nextDot s n := rfl
@[simp] theorem fsmAdvance_line (n : Nat) : (fsmAdvance s n).line = nextLine s n := rfl
@[simp] theorem fsmAdvance_mode (n : Nat) : (fsmAdvance s n).mode = modeOf s.cfg (nextLine s n) (nextDot s n) := rfl
@[simp] theorem fsmAdvance_vramBank (n : Nat) : (fsmAdvance s n).vramBank = s.vramBank := rfl
@[simp] theorem fsmAdvance_winLine (n : Nat) : (fsmAdvance s n).winLine = s.winLine := rfl
@[simp] theorem fsmAdvance_syspalSel (n : Nat) : (fsmAdvance s n).syspalSel = s.syspalSel := rfl
@[simp] theorem fsmAdvance_fault (n : Nat) : (fsmAdvance s n).fault = s.fault := rfl
@[simp] theorem fsmAdvance_pending (n : Nat) : (fsmAdvance s n).pending = s.pending := rfl

/-- The state UPDATE leaves, but for its answer. -/
def updated (n : Nat) : State :=
  (scanlineUpdate (fsmAdvance s n)).setIo 0x41 (statSetMode (scanlineUpdate (fsmAdvance s n)).stat (fsmAdvance s n).mode)

theorem execUpdate_eq (n : Nat) :
    execUpdate n s = .next ((updated s n).setResponse (.update (fsmResult s n)
      (lycIrq (fsmAdvance s n) || modeIrq (scanlineUpdate (fsmAdvance s n)).stat s.mode (fsmAdvance s n).mode))) := rfl

theorem updated_registers (n : Nat) :
    (updated s n).cfg = s.cfg ∧ (updated s n).dot = nextDot s n ∧ (updated s n).line = nextLine s n ∧
      (updated s n).mode = modeOf s.cfg (nextLine s n) (nextDot s n) ∧ (updated s n).vramBank = s.vramBank ∧
      (updated s n).syspalSel = s.syspalSel ∧ (updated s n).fault = s.fault ∧ (updated s n).pending = s.pending := by
  have h := scanlineUpdate_registers (fsmAdvance s n)
  simp only [SameRegisters, State.setWinLine_cfg, State.setWinLine_dot, State.setWinLine_line, State.setWinLine_mode,
    State.setWinLine_vramBank, State.setWinLine_syspalSel, State.setWinLine_fault, State.setWinLine_pending] at h
  simp [updated, State.setIo, h]

theorem updated_memRead {n : Nat} {r : Region} {k : Nat} (h : ¬(r = .io ∧ (k = 0x41 ∨ k = 0x44))) :
    (updated s n).memRead r k = s.memRead r k := by
  rw [updated, memRead_setIo_ne _ (by tauto), scanlineUpdate_memRead _ h, fsmAdvance_memRead]

theorem updated_ly (n : Nat) : (updated s n).ly = lineByte (nextLine s n) := by
  rw [updated, State.ly, ioByte_setIo_ne _ (by decide)]
  exact scanlineUpdate_ly _

theorem updated_stat (n : Nat) :
    (updated s n).stat = statSetMode
      (if lineByte (nextLine s n) = s.ly then s.stat else statSetLycEq s.stat (lineByte (nextLine s n) == s.lyc))
      (modeOf s.cfg (nextLine s n) (nextDot s n)) := by
  rw [updated, State.stat, ioByte_setIo_same, scanlineUpdate_stat]
  rfl

theorem updated_winLine (n : Nat) :
    (updated s n).winLine =
      if lineByte (nextLine s n) = s.ly then s.winLine else if lineByte (nextLine s n) = 0 then none else s.winLine := by
  simp only [updated, State.setIo, State.memWrite_winLine, scanlineUpdate_winLine]
  rfl

theorem updated_keeps_wf {s : State} (h : ∀ r, Memory.wf r.unlisted r.size (s.region r)) (n : Nat) (r : Region) :
    Memory.wf r.unlisted r.size ((updated s n).region r) :=
  memWrite_keeps_wf (scanlineUpdate_keeps_wf fun r => by rw [fsmAdvance_region]; exact h r) (by decide) r

/-- The coincidence condition in terms of the state before the step (40_mode_fsm.md rule R136). -/
theorem lycIrq_fsmAdvance {n : Nat} :
    lycIrq (fsmAdvance s n) = true ↔
      (nextLine s n).val ≠ s.ly.toNat ∧ (nextLine s n).val = s.lyc.toNat ∧ s.stat.getLsbD 6 = true := by
  have h : lycIrq (fsmAdvance s n) =
      (decide (lineByte (nextLine s n) ≠ s.ly) && (lineByte (nextLine s n) == s.lyc) && s.stat.getLsbD 6) := rfl
  rw [h]
  simp only [Bool.and_eq_true, decide_eq_true_eq, beq_iff_eq, Ne, lineByte_eq_iff, and_assoc]

/-- The scanline counter keeps the bits of STAT above the coincidence flag. -/
theorem getLsbD_scanlineUpdate_stat {k : Nat} (hk : 3 ≤ k) : (scanlineUpdate s).stat.getLsbD k = s.stat.getLsbD k := by
  rw [scanlineUpdate_stat]
  split
  · rfl
  · exact getLsbD_statSetLycEq (by omega)

end Sys2Proof.Machine
end

