-- ==== Sys2Proof/Laws/Exec.lean ====
section
/-!
SUPPORT. What one transaction can do, said once for all of them: the inversion of `exec`, which invariants cite instead of
unfolding the meanings; and the inversion of `step`.
-/

namespace Sys2Proof.Machine

/-! ## The four VRAM mnemonics -/

theorem exec_rdTile (a : Addr) (bov : BankOverride) (s : State) :
    exec (.rdTile a bov) s = withVram a bov s (fun bank => readByte (.tile bank) (tileOffset a) s) := rfl
theorem exec_wrTile (a : Addr) (v : Byte) (s : State) :
    exec (.wrTile a v) s = withVram a none s (fun bank => writeByte (.tile bank) (tileOffset a) v s) := rfl
theorem exec_rdMap (a : Addr) (bov : BankOverride) (s : State) :
    exec (.rdMap a bov) s = withVram a bov s (fun bank => readByte (.map bank) (mapOffset a) s) := rfl
theorem exec_wrMap (a : Addr) (v : Byte) (s : State) :
    exec (.wrMap a v) s = withVram a none s (fun bank => writeByte (.map bank) (mapOffset a) v s) := rfl

/-- A VRAM access through bank 1 on `DMG` is the contract violation. -/
theorem withVram_violation {s : State} {a : Addr} {bov : BankOverride} {access : Bank → Result} (hv : s.cfg.variant = .dmg)
    (hb : effBank s bov = .bank1) :
    withVram a bov s access = .next ((s.setFault (some (.dmgNonZeroBank a))).setResponse .none) := by
  rcases withVram_cases s a bov access with ⟨-, -, h⟩ | ⟨h, -⟩
  · exact h
  · exact absurd ⟨hv, hb⟩ h

/-- Any other VRAM access goes to its effective bank. -/
theorem withVram_allowed {s : State} {a : Addr} {bov : BankOverride} {access : Bank → Result}
    (h : ¬(s.cfg.variant = .dmg ∧ effBank s bov = .bank1)) : withVram a bov s access = access (effBank s bov) := by
  rcases withVram_cases s a bov access with ⟨hv, hb, -⟩ | ⟨-, h⟩
  · exact absurd ⟨hv, hb⟩ h
  · exact h

/-! ## What one transaction can do -/

/-- A byte a bus WRITE can store in a state: never the frame buffer or LY, STAT only through the merge of the status flags, on
`CGB` none of the bytes of `IO` it does not use, on `DMG` with bank 0 selected none of the memories only `CGB` reaches. -/
structure Storable (s : State) (r : Region) (k : Nat) (v : Byte) : Prop where
  inside : k < r.size
  notFrame : r ≠ .fb
  notLy : r = .io → k ≠ 0x44
  stat : r = .io → k = 0x41 → ∃ w, v = statBusWrite s.stat w
  cgb : r = .io → s.cfg.variant = .cgb → k ≠ 0x4F ∧ k ≠ 0x69 ∧ k ≠ 0x6B
  dmg : s.cfg.variant = .dmg → r ≠ .bgpram ∧ r ≠ .obpram ∧ r ≠ .tile .bank1 ∧ r ≠ .map .bank1

/-- The states one transaction, of instruction `i`, can lead to. -/
inductive Effect (s : State) (i : Instr) : State → Prop where
  | answer (resp : Response) : Effect s i (s.setResponse resp)
  | violate (a : Addr) : s.cfg.variant = .dmg → Effect s i ((s.setFault (some (.dmgNonZeroBank a))).setResponse .none)
  | store (r : Region) (k : Nat) (v : Byte) : Storable s r k v → Effect s i ((s.memWrite r k v).setResponse .none)
  | bank (b : Bank) (v : Byte) : i = .wrVbk v → s.cfg.variant = .cgb → Effect s i ((s.setVramBank b).setResponse .none)
  | scheme (c : Nat) : i = .selectSyspal c → c < s.cfg.syspal.length → Effect s i ((s.setSyspalSel c).setResponse .none)
  | paletteRead (k : Nat) (resp : Response) : s.cfg.variant = .cgb → k = 0x68 ∨ k = 0x6A →
      Effect s i ((s.setIo k (palAdvance (s.ioByte k))).setResponse resp)
  | paletteWrite (ram : Region) (k : Nat) (v : Byte) : s.cfg.variant = .cgb → ram = .bgpram ∨ ram = .obpram →
      k = 0x68 ∨ k = 0x6A →
      Effect s i (((s.memWrite ram (palIndex (s.ioByte k)) v).setIo k (palAdvance (s.ioByte k))).setResponse .none)
  | update (n : Nat) (resp : Response) : i = .update n → Effect s i ((updated s n).setResponse resp)
  | row : i = .renderScanline → s.ly.toNat < 144 → Effect s i (((s.setRow s.ly.toNat (composedRow s s.ly.toNat)).setWinLine
      (nextWinLine s s.ly.toNat)).setResponse .none)

/-- The offset of a well-formed address lies in its region (20_memory.md rules R65 to R68). -/
theorem tileOffset_lt {a : Addr} (h : a.isTile = true) : tileOffset a < 6144 := by
  rw [isTile_iff] at h; unfold tileOffset; omega
theorem mapOffset_lt {a : Addr} (h : a.isMap = true) : mapOffset a < 2048 := by
  rw [isMap_iff] at h; unfold mapOffset; omega
theorem oamOffset_lt {a : Addr} (h : a.isOam = true) : oamOffset a < 160 := by
  rw [isOam_iff] at h; unfold oamOffset; omega

/-- A plain I/O address is no byte with a function of its own (20_memory.md rule R68). -/
theorem ioOffset_plain {a : Addr} (h : a.isPlainIo = true) :
    ioOffset a < 128 ∧ ioOffset a ≠ 0x44 ∧ ioOffset a ≠ 0x41 ∧ ioOffset a ≠ 0x4F ∧ ioOffset a ≠ 0x69 ∧ ioOffset a ≠ 0x6B := by
  obtain ⟨h1, h2⟩ := isPlainIo_iff.1 h
  rw [isIo_iff] at h1
  rw [isNamed_iff] at h2
  unfold ioOffset
  omega

theorem storable_io {s : State} {k : Nat} {v : Byte} (hk : k < 128) (h44 : k ≠ 0x44) (h41 : k ≠ 0x41)
    (hc : s.cfg.variant = .cgb → k ≠ 0x4F ∧ k ≠ 0x69 ∧ k ≠ 0x6B) : Storable s .io k v :=
  ⟨hk, by simp, fun _ => h44, fun _ h => absurd h h41, fun _ => hc, fun _ => by simp⟩

theorem storable_stat {s : State} {w : Byte} : Storable s .io 0x41 (statBusWrite s.stat w) :=
  ⟨by simp [Region.size], by simp, fun _ => by simp, fun _ _ => ⟨w, rfl⟩, fun _ _ => by simp, fun _ => by simp⟩

theorem storable_vram {s : State} {r : Region} {k : Nat} {v : Byte} (hb : ¬(s.cfg.variant = .dmg ∧ s.vramBank = .bank1))
    (hr : r = .tile s.vramBank ∨ r = .map s.vramBank) (hk : k < r.size) : Storable s r k v := by
  refine ⟨hk, ?_, ?_, ?_, ?_, ?_⟩ <;> rcases hr with rfl | rfl <;> simp_all

/-- One transaction of a well-formed instruction does one of these things. -/
theorem exec_effect {i : Instr} {s t : State} (hw : i.wf = true) (h : exec i s = .next t) : Effect s i t := by
  have plain : ∀ {k v}, k < 128 → k ≠ 0x44 → k ≠ 0x41 → (s.cfg.variant = .cgb → k ≠ 0x4F ∧ k ≠ 0x69 ∧ k ≠ 0x6B) →
      writeByte .io k v s = .next t → Effect s i t := by
    intro k v h1 h2 h3 h4 h
    cases h
    exact .store _ _ _ (storable_io h1 h2 h3 h4)
  have read : ∀ {r k}, readByte r k s = .next t → Effect s i t := by
    intro r k h
    cases h
    exact .answer _
  have vram : ∀ {a : Addr} {bov : BankOverride} {access : Bank → Result},
      (¬(s.cfg.variant = .dmg ∧ effBank s bov = .bank1) → access (effBank s bov) = .next t → Effect s i t) →
      withVram a bov s access = .next t → Effect s i t := by
    intro a bov access h1 h2
    rcases withVram_cases s a bov access with ⟨hv, -, he⟩ | ⟨hb, he⟩
    · rw [he] at h2
      cases h2
      exact .violate a hv
    · exact h1 hb (he ▸ h2)
  cases i with
  | rdTile a bov =>
    have h : withVram a bov s (fun bank => readByte (.tile bank) (tileOffset a) s) = .next t := h
    exact vram (fun _ h => read h) h
  | rdMap a bov =>
    have h : withVram a bov s (fun bank => readByte (.map bank) (mapOffset a) s) = .next t := h
    exact vram (fun _ h => read h) h
  | wrTile a v =>
    have h : withVram a none s (fun bank => writeByte (.tile bank) (tileOffset a) v s) = .next t := h
    refine vram (fun hb h => ?_) h
    cases h
    exact .store (.tile s.vramBank) (tileOffset a) v (storable_vram hb (.inl rfl) (tileOffset_lt hw))
  | wrMap a v =>
    have h : withVram a none s (fun bank => writeByte (.map bank) (mapOffset a) v s) = .next t := h
    refine vram (fun hb h => ?_) h
    cases h
    exact .store (.map s.vramBank) (mapOffset a) v (storable_vram hb (.inr rfl) (mapOffset_lt hw))
  | rdOam a bov => exact read h
  | wrOam a v =>
    have h : writeByte .oam (oamOffset a) v s = .next t := h
    cases h
    exact .store .oam (oamOffset a) v ⟨oamOffset_lt hw, by simp, by simp, by simp, by simp, by simp⟩
  | rdLcdc bov => exact read h
  | wrLcdc v => exact plain (by decide) (by decide) (by decide) (by simp) h
  | rdStat bov => exact read h
  | wrStat v => cases h; exact .store _ _ _ storable_stat
  | rdScy bov => exact read h
  | wrScy v => exact plain (by decide) (by decide) (by decide) (by simp) h
  | rdScx bov => exact read h
  | wrScx v => exact plain (by decide) (by decide) (by decide) (by simp) h
  | rdLy bov => exact read h
  | wrLy v => cases h; exact .answer _
  | rdLyc bov => exact read h
  | wrLyc v => exact plain (by decide) (by decide) (by decide) (by simp) h
  | rdBgp bov => exact read h
  | wrBgp v => exact plain (by decide) (by decide) (by decide) (by simp) h
  | rdObp0 bov => exact read h
  | wrObp0 v => exact plain (by decide) (by decide) (by decide) (by simp) h
  | rdObp1 bov => exact read h
  | wrObp1 v => exact plain (by decide) (by decide) (by decide) (by simp) h
  | rdWy bov => exact read h
  | wrWy v => exact plain (by decide) (by decide) (by decide) (by simp) h
  | rdWx bov => exact read h
  | wrWx v => exact plain (by decide) (by decide) (by decide) (by simp) h
  | rdVbk bov =>
    simp only [exec, execRdVbk] at h
    split at h
    · cases h; exact .answer _
    · exact read h
  | wrVbk v =>
    simp only [exec, execWrVbk] at h
    split at h
    · cases h; exact .bank _ _ rfl ‹_›
    · exact plain (by decide) (by decide) (by decide) (by simp [*]) h
  | rdBgpi bov => exact read h
  | wrBgpi v => exact plain (by decide) (by decide) (by decide) (by simp) h
  | rdBgpd bov =>
    simp only [exec, execRdBgpd] at h
    split at h
    · cases h; exact .paletteRead _ _ ‹_› (.inl rfl)
    · exact read h
  | wrBgpd v =>
    simp only [exec, execWrBgpd] at h
    split at h
    · cases h; exact .paletteWrite _ _ _ ‹_› (.inl rfl) (.inl rfl)
    · exact plain (by decide) (by decide) (by decide) (by simp [*]) h
  | rdObpi bov => exact read h
  | wrObpi v => exact plain (by decide) (by decide) (by decide) (by simp) h
  | rdObpd bov =>
    simp only [exec, execRdObpd] at h
    split at h
    · cases h; exact .paletteRead _ _ ‹_› (.inr rfl)
    · exact read h
  | wrObpd v =>
    simp only [exec, execWrObpd] at h
    split at h
    · cases h; exact .paletteWrite _ _ _ ‹_› (.inr rfl) (.inr rfl)
    · exact plain (by decide) (by decide) (by decide) (by simp [*]) h
  | rdIo a bov => exact read h
  | wrIo a v =>
    have h : writeByte .io (ioOffset a) v s = .next t := h
    obtain ⟨h1, h2, h3, h4⟩ := ioOffset_plain hw
    exact plain h1 h2 h3 (fun _ => h4) h
  | rdUnmapped a bov => cases h; exact .answer _
  | wrUnmapped a v => cases h; exact .answer _
  | update n => cases h; exact .update n _ rfl
  | renderScanline =>
    simp only [exec, execRenderScanline] at h
    split at h
    · cases h; exact .answer _
    · cases h; exact .row rfl (by omega)
  | renderScreen => cases h; exact .answer _
  | getMode => cases h; exact .answer _
  | selectSyspal c =>
    simp only [exec, execSelectSyspal] at h
    split at h
    · cases h
    · cases h; exact .scheme _ rfl (by omega)

/-- A step either finds nothing presented, or runs the decoded instruction, well formed, of the next word. -/
theorem step_cases {s t : State} (h : step s = .next t) :
    (s.fault = none ∧ s.pending = [] ∧ t = s) ∨
      ∃ w rest i, s.fault = none ∧ s.pending = w :: rest ∧ decode w = .ok i ∧ exec i (s.setPending rest) = .next t := by
  unfold step fetch at h
  rcases hf : s.fault with _ | f
  · rcases hp : s.pending with _ | ⟨w, rest⟩
    · simp only [hf, hp] at h
      cases h
      exact .inl ⟨rfl, rfl, rfl⟩
    · rcases hd : decode w with e | i
      · simp [hf, hp, hd] at h
      · simp only [hf, hp, hd] at h
        exact .inr ⟨w, rest, i, rfl, rfl, hd, h⟩
  · simp [hf] at h

end Sys2Proof.Machine
end

