-- ==== Sys2Proof/Laws/PerInstr.lean ====
section
/-!
SUPPORT. One lemma per mnemonic: the word of a well-formed instruction, with every operand, matches its row of
opcode_table.json and no other bit pattern (30_encoding.md rule R96).
-/

namespace Sys2Proof

/-- Masking a region READ keeps its opcode and its zero bits only. -/
theorem encodeRead_region (a : Addr) (bov : BankOverride) : encodeRead a bov &&& 0xF3FF0000#32 = 0x10000000#32 := by
  have mask : ∀ h : BitVec 16, (h ++ a) &&& (0xF3FF#16 ++ 0#16) = (h &&& 0xF3FF#16) ++ 0#16 := fun h => by
    rw [BitVec.and_append, BitVec.and_zero]
  rcases bov with _ | _ | _
  · exact mask 0x1000#16
  · exact mask 0x1800#16
  · exact mask 0x1C00#16

theorem encodeWrite_region (a : Addr) (v : Byte) : encodeWrite a v &&& 0xFF000000#32 = 0x20000000#32 := by
  have h : (0x20#8 ++ v ++ a) &&& (0xFF#8 ++ 0#8 ++ 0#16) = 0x20#8 ++ 0#8 ++ 0#16 := by
    rw [BitVec.and_append, BitVec.and_append, BitVec.and_zero, BitVec.and_zero]
    rfl
  exact h

/-- Masking a register WRITE drops its data. -/
theorem encodeWrite_named (a : Addr) (v : Byte) : encodeWrite a v &&& 0xFF00FFFF#32 = 0x2000#16 ++ a := by
  have h : (0x20#8 ++ v ++ a) &&& (0xFF#8 ++ 0#8 ++ 0xFFFF#16) = 0x20#8 ++ 0#8 ++ a := by
    rw [BitVec.and_append, BitVec.and_append, BitVec.and_zero, show 0xFFFF#16 = BitVec.allOnes 16 from rfl,
      BitVec.and_allOnes]
    rfl
  exact h

theorem update_word (n : Nat) : (Transaction.update n).word &&& 0xF0000000#32 = 0x30000000#32 := by
  have h : (0x3#4 ++ BitVec.ofNat 28 n) &&& (0xF#4 ++ 0#28) = 0x3#4 ++ 0#28 := by
    rw [BitVec.and_append, BitVec.and_zero]
    rfl
  exact h

theorem selectSyspal_word (c : Nat) : (Transaction.selectSyspal c).word &&& 0xFFFFFF00#32 = 0x70000000#32 := by
  have h : (0x700000#24 ++ BitVec.ofNat 8 c) &&& (0xFFFFFF#24 ++ 0#8) = 0x700000#24 ++ 0#8 := by
    rw [BitVec.and_append, BitVec.and_zero]
    rfl
  exact h

end Sys2Proof

namespace Sys2Proof.Laws.TableRow

open Sys2Proof

/-- The word of a well-formed instruction matches its row, and is what its transaction decodes into. -/
def Statement (i : Instr) : Prop :=
  i.wf = true → encode i &&& i.tableRow.1 = i.tableRow.2 ∧ i.transaction.instr = i ∧ i.transaction.fits

theorem of_row {i : Instr} (h : encode i &&& i.tableRow.1 = i.tableRow.2) : Statement i :=
  fun hw => ⟨h, transaction_instr hw, transaction_fits hw⟩

theorem rdTile (a : Addr) (bov : BankOverride) : Statement (.rdTile a bov) := of_row (encodeRead_region _ _)
theorem wrTile (a : Addr) (v : Byte) : Statement (.wrTile a v) := of_row (encodeWrite_region _ _)
theorem rdMap (a : Addr) (bov : BankOverride) : Statement (.rdMap a bov) := of_row (encodeRead_region _ _)
theorem wrMap (a : Addr) (v : Byte) : Statement (.wrMap a v) := of_row (encodeWrite_region _ _)
theorem rdOam (a : Addr) (bov : BankOverride) : Statement (.rdOam a bov) := of_row (encodeRead_region _ _)
theorem wrOam (a : Addr) (v : Byte) : Statement (.wrOam a v) := of_row (encodeWrite_region _ _)
theorem rdLcdc (bov : BankOverride) : Statement (.rdLcdc bov) := of_row (by rcases bov with _ | _ | _ <;> rfl)
theorem wrLcdc (v : Byte) : Statement (.wrLcdc v) := of_row (encodeWrite_named _ _)
theorem rdStat (bov : BankOverride) : Statement (.rdStat bov) := of_row (by rcases bov with _ | _ | _ <;> rfl)
theorem wrStat (v : Byte) : Statement (.wrStat v) := of_row (encodeWrite_named _ _)
theorem rdScy (bov : BankOverride) : Statement (.rdScy bov) := of_row (by rcases bov with _ | _ | _ <;> rfl)
theorem wrScy (v : Byte) : Statement (.wrScy v) := of_row (encodeWrite_named _ _)
theorem rdScx (bov : BankOverride) : Statement (.rdScx bov) := of_row (by rcases bov with _ | _ | _ <;> rfl)
theorem wrScx (v : Byte) : Statement (.wrScx v) := of_row (encodeWrite_named _ _)
theorem rdLy (bov : BankOverride) : Statement (.rdLy bov) := of_row (by rcases bov with _ | _ | _ <;> rfl)
theorem wrLy (v : Byte) : Statement (.wrLy v) := of_row (encodeWrite_named _ _)
theorem rdLyc (bov : BankOverride) : Statement (.rdLyc bov) := of_row (by rcases bov with _ | _ | _ <;> rfl)
theorem wrLyc (v : Byte) : Statement (.wrLyc v) := of_row (encodeWrite_named _ _)
theorem rdBgp (bov : BankOverride) : Statement (.rdBgp bov) := of_row (by rcases bov with _ | _ | _ <;> rfl)
theorem wrBgp (v : Byte) : Statement (.wrBgp v) := of_row (encodeWrite_named _ _)
theorem rdObp0 (bov : BankOverride) : Statement (.rdObp0 bov) := of_row (by rcases bov with _ | _ | _ <;> rfl)
theorem wrObp0 (v : Byte) : Statement (.wrObp0 v) := of_row (encodeWrite_named _ _)
theorem rdObp1 (bov : BankOverride) : Statement (.rdObp1 bov) := of_row (by rcases bov with _ | _ | _ <;> rfl)
theorem wrObp1 (v : Byte) : Statement (.wrObp1 v) := of_row (encodeWrite_named _ _)
theorem rdWy (bov : BankOverride) : Statement (.rdWy bov) := of_row (by rcases bov with _ | _ | _ <;> rfl)
theorem wrWy (v : Byte) : Statement (.wrWy v) := of_row (encodeWrite_named _ _)
theorem rdWx (bov : BankOverride) : Statement (.rdWx bov) := of_row (by rcases bov with _ | _ | _ <;> rfl)
theorem wrWx (v : Byte) : Statement (.wrWx v) := of_row (encodeWrite_named _ _)
theorem rdVbk (bov : BankOverride) : Statement (.rdVbk bov) := of_row (by rcases bov with _ | _ | _ <;> rfl)
theorem wrVbk (v : Byte) : Statement (.wrVbk v) := of_row (encodeWrite_named _ _)
theorem rdBgpi (bov : BankOverride) : Statement (.rdBgpi bov) := of_row (by rcases bov with _ | _ | _ <;> rfl)
theorem wrBgpi (v : Byte) : Statement (.wrBgpi v) := of_row (encodeWrite_named _ _)
theorem rdBgpd (bov : BankOverride) : Statement (.rdBgpd bov) := of_row (by rcases bov with _ | _ | _ <;> rfl)
theorem wrBgpd (v : Byte) : Statement (.wrBgpd v) := of_row (encodeWrite_named _ _)
theorem rdObpi (bov : BankOverride) : Statement (.rdObpi bov) := of_row (by rcases bov with _ | _ | _ <;> rfl)
theorem wrObpi (v : Byte) : Statement (.wrObpi v) := of_row (encodeWrite_named _ _)
theorem rdObpd (bov : BankOverride) : Statement (.rdObpd bov) := of_row (by rcases bov with _ | _ | _ <;> rfl)
theorem wrObpd (v : Byte) : Statement (.wrObpd v) := of_row (encodeWrite_named _ _)
theorem rdIo (a : Addr) (bov : BankOverride) : Statement (.rdIo a bov) := of_row (encodeRead_region _ _)
theorem wrIo (a : Addr) (v : Byte) : Statement (.wrIo a v) := of_row (encodeWrite_region _ _)
theorem rdUnmapped (a : Addr) (bov : BankOverride) : Statement (.rdUnmapped a bov) := of_row (encodeRead_region _ _)
theorem wrUnmapped (a : Addr) (v : Byte) : Statement (.wrUnmapped a v) := of_row (encodeWrite_region _ _)
theorem update (n : Nat) : Statement (.update n) := of_row (update_word _)
theorem renderScanline : Statement .renderScanline := of_row rfl
theorem renderScreen : Statement .renderScreen := of_row rfl
theorem getMode : Statement .getMode := of_row rfl
theorem selectSyspal (choice : Nat) : Statement (.selectSyspal choice) := of_row (selectSyspal_word _)

end Sys2Proof.Laws.TableRow
end

