-- ==== Sys2Proof/Laws/Render.lean ====
section
/-!
SUPPORT. The two render commands as equations, the pixels of a composed row, and the priority order of sprites: a strict order,
which sorting keeps, and what the first entries of a sorted list are.
-/

namespace Sys2Proof.Machine

/-! ## Rows -/

theorem execRenderScanline_visible {s : State} (h : s.ly.toNat < 144) :
    execRenderScanline s = .next (((s.setRow s.ly.toNat (composedRow s s.ly.toNat)).setWinLine
      (nextWinLine s s.ly.toNat)).setResponse .none) := by
  rw [execRenderScanline, if_neg (by omega)]
  rfl

theorem execRenderScanline_blanked {s : State} (h : 144 ≤ s.ly.toNat) : execRenderScanline s = .next (s.setResponse .none) := by
  rw [execRenderScanline, if_pos h]
  rfl

@[simp] theorem length_composedRow (s : State) (y : Nat) : (composedRow s y).length = 160 := by simp [composedRow]

/-- A pixel of the row a render stores. -/
theorem pixel_composedRow (s : State) {y x : Nat} (hx : x < 160) :
    (s.setRow y (composedRow s y)).pixel x y = composedPixel s y (layerSprites s y) x := by
  rw [pixel_setRow_inside s (by simpa using hx)]
  simp [composedRow]

@[simp] theorem pixel_setWinLine (s : State) (n : Option Nat) (x y : Nat) : (s.setWinLine n).pixel x y = s.pixel x y := by
  simp [State.pixel]

@[simp] theorem pixel_setResponse (s : State) (r : Response) (x y : Nat) : (s.setResponse r).pixel x y = s.pixel x y := by
  simp [State.pixel]

theorem windowDrawn_iff {s : State} {y : Nat} : windowDrawn s y = true ↔ s.winEn = true ∧ s.wy ≤ y ∧ s.wx0 < 160 := by
  simp [windowDrawn, and_assoc]

/-! ## The priority order of sprites (43_sprites.md rule R263) -/

theorem before_iff {a b : Sprite} : before a b = true ↔ a.x.toNat < b.x.toNat ∨ (a.x.toNat = b.x.toNat ∧ a.index < b.index) := by
  simp [before, BitVec.toNat_eq]

theorem before_trans {a b c : Sprite} (h : before a b = true) (k : before b c = true) : before a c = true := by
  rw [before_iff] at *
  omega

theorem before_irrefl (a : Sprite) : ¬before a a = true := by
  rw [before_iff]
  omega

theorem before_of_not_before {a b : Sprite} (h : ¬before a b = true) (hi : a.index ≠ b.index) : before b a = true := by
  rw [before_iff] at *
  omega

/-- In the priority order of rule R263. -/
abbrev Prioritized (l : List Sprite) : Prop := l.Pairwise (fun a b => before a b = true)

theorem mem_insertSprite {a x : Sprite} {l : List Sprite} : x ∈ insertSprite a l ↔ x = a ∨ x ∈ l := by
  induction l with
  | nil => simp [insertSprite]
  | cons b l ih =>
    unfold insertSprite
    split
    · simp
    · simp only [List.mem_cons, ih]
      tauto

theorem insertSprite_prioritized {a : Sprite} {l : List Sprite} (h : Prioritized l) (hi : ∀ x ∈ l, x.index ≠ a.index) :
    Prioritized (insertSprite a l) := by
  induction l with
  | nil => simp [insertSprite, Prioritized]
  | cons b l ih =>
    obtain ⟨h1, h2⟩ := List.pairwise_cons.1 h
    unfold insertSprite
    split
    · rename_i hab
      refine List.pairwise_cons.2 ⟨fun c hc => ?_, h⟩
      rcases List.mem_cons.1 hc with rfl | hc
      · exact hab
      · exact before_trans hab (h1 c hc)
    · rename_i hab
      refine List.pairwise_cons.2 ⟨fun c hc => ?_, ih h2 (fun x hx => hi x (by simp [hx]))⟩
      rcases mem_insertSprite.1 hc with rfl | hc
      · exact before_of_not_before hab (hi b (by simp)).symm
      · exact h1 c hc

/-- Sorting keeps the sprites. -/
@[simp] theorem mem_sortSprites {x : Sprite} {l : List Sprite} : x ∈ sortSprites l ↔ x ∈ l := by
  induction l with
  | nil => simp [sortSprites]
  | cons b l ih =>
    change x ∈ insertSprite b (sortSprites l) ↔ _
    rw [mem_insertSprite, ih, List.mem_cons]

/-- Sorting sprites of different indices puts them in priority order. -/
theorem sortSprites_prioritized {l : List Sprite} (h : l.Pairwise (fun a b => a.index ≠ b.index)) : Prioritized (sortSprites l) := by
  induction l with
  | nil => simp [sortSprites, Prioritized]
  | cons b l ih =>
    obtain ⟨h1, h2⟩ := List.pairwise_cons.1 h
    exact insertSprite_prioritized (ih h2) fun x hx => (h1 x (mem_sortSprites.1 hx)).symm

/-- The first `n` of a prioritized list are those with fewer than `n` before them. -/
theorem mem_take_of_prioritized {l : List Sprite} {n : Nat} {x : Sprite} (h : Prioritized l) :
    x ∈ l.take n ↔ x ∈ l ∧ (l.filter (fun z => before z x)).length < n := by
  induction l generalizing n with
  | nil => simp
  | cons b l ih =>
    obtain ⟨h1, h2⟩ := List.pairwise_cons.1 h
    cases n with
    | zero => simp
    | succ n =>
      rw [List.take_succ_cons, List.mem_cons, ih h2, List.mem_cons]
      by_cases hb : x = b
      · subst hb
        have hnil : l.filter (fun z => before z x) = [] := by
          rw [List.filter_eq_nil_iff]
          exact fun a ha hax => before_irrefl x (before_trans (h1 a ha) hax)
        simp [before_irrefl x, hnil]
      · by_cases hx : x ∈ l
        · simp [hb, hx, h1 x hx]
        · simp [hb, hx]

theorem allSprites_indices (s : State) : (allSprites s).Pairwise (fun a b => a.index ≠ b.index) := by
  unfold allSprites
  rw [List.pairwise_map]
  exact List.nodup_range

theorem qualifying_prioritized (s : State) (y : Nat) : Prioritized (qualifying s y) :=
  sortSprites_prioritized ((allSprites_indices s).filter _)

theorem mem_qualifying {s : State} {y : Nat} {sp : Sprite} :
    sp ∈ qualifying s y ↔ ∃ k, k < 40 ∧ sp = s.sprite k ∧ qualifies s y sp = true := by
  simp only [qualifying, mem_sortSprites, List.mem_filter, allSprites, List.mem_map, List.mem_range]
  constructor
  · rintro ⟨⟨k, hk, rfl⟩, hq⟩
    exact ⟨k, hk, rfl, hq⟩
  · rintro ⟨k, hk, rfl, hq⟩
    exact ⟨⟨k, hk, rfl⟩, hq⟩

end Sys2Proof.Machine
end

