-- ==== Sys2Proof/Tests/Slice0.lean ====
section
/-!
SUPPORT. Tests: words written out from 30_encoding.md rule R92, ill-formed terms refused, single steps with expected results of
95_test_vectors.md (each names its vector), and one witness per statement that has hypotheses.
-/

namespace Sys2Proof.Tests

open Sys2Proof Sys2Proof.Machine

/-! ## Helpers -/

/-- A fresh instance with the default parameters and `INIT_MEM` all zero (95_test_vectors.md §0). -/
def fresh (v : Variant) : State := State.create (Config.default v) InitMem.zero

/-- A field of the next state of a step, or of a meaning. -/
def after {α : Type} (o : Result) (f : State → α) : Option α :=
  match o with
  | .next t => some (f t)
  | _ => none

/-- A field of the state after one step on the word `w`. -/
def ran {α : Type} (s : State) (w : Nat) (f : State → α) : Option α := after (step (s.withFetchWord 32 w)) f

/-- A named register of `IO`, after. -/
def io (k : Nat) (t : State) : Byte := t.ioByte k

/-- What the transaction answered. -/
def answered (t : State) : Response := t.response

/-- `fresh` at a position of the state machine, with the STAT, LY and mode that go with it. -/
def placed (v : Variant) (line : Fin 154) (dot : Fin 456) (stat : Byte) : State :=
  (((fresh v).setFsm dot line (modeOf (Config.default v) line dot)).setIo 0x44 (lineByte line)).setIo 0x41 stat

/-! ## Decoding: each word written out from the encoding tables -/

theorem test_decode_vram :
    decode 0b0001_00_0000000000_1000000000010000#32 = .ok (.rdTile 0x8010 none) ∧
    decode 0b0010_0000_01011010_1001011111111111#32 = .ok (.wrTile 0x97FF 0x5A) ∧
    decode 0b0001_10_0000000000_1001100000000000#32 = .ok (.rdMap 0x9800 (some .bank0)) ∧
    decode 0b0010_0000_00100010_1001111111111111#32 = .ok (.wrMap 0x9FFF 0x22) := by decide

theorem test_decode_oam :
    decode 0b0001_00_0000000000_1111111000000000#32 = .ok (.rdOam 0xFE00 none) ∧
    decode 0b0010_0000_00010000_1111111010011111#32 = .ok (.wrOam 0xFE9F 0x10) := by decide

theorem test_decode_lcd_reads :
    decode 0b0001_11_0000000000_1111111101000000#32 = .ok (.rdLcdc (some .bank1)) ∧
    decode 0b0001_00_0000000000_1111111101000001#32 = .ok (.rdStat none) ∧
    decode 0b0001_00_0000000000_1111111101000010#32 = .ok (.rdScy none) ∧
    decode 0b0001_00_0000000000_1111111101000011#32 = .ok (.rdScx none) ∧
    decode 0b0001_00_0000000000_1111111101000100#32 = .ok (.rdLy none) ∧
    decode 0b0001_00_0000000000_1111111101000101#32 = .ok (.rdLyc none) ∧
    decode 0b0001_00_0000000000_1111111101001010#32 = .ok (.rdWy none) ∧
    decode 0b0001_00_0000000000_1111111101001011#32 = .ok (.rdWx none) := by decide

theorem test_decode_lcd_writes :
    decode 0b0010_0000_10010001_1111111101000000#32 = .ok (.wrLcdc 0x91) ∧
    decode 0b0010_0000_01000000_1111111101000001#32 = .ok (.wrStat 0x40) ∧
    decode 0b0010_0000_00000001_1111111101000010#32 = .ok (.wrScy 0x01) ∧
    decode 0b0010_0000_00000100_1111111101000011#32 = .ok (.wrScx 0x04) ∧
    decode 0b0010_0000_00000101_1111111101000100#32 = .ok (.wrLy 0x05) ∧
    decode 0b0010_0000_00101000_1111111101000101#32 = .ok (.wrLyc 0x28) ∧
    decode 0b0010_0000_00000110_1111111101001010#32 = .ok (.wrWy 0x06) ∧
    decode 0b0010_0000_00000111_1111111101001011#32 = .ok (.wrWx 0x07) := by decide

theorem test_decode_palette_reads :
    decode 0b0001_00_0000000000_1111111101000111#32 = .ok (.rdBgp none) ∧
    decode 0b0001_00_0000000000_1111111101001000#32 = .ok (.rdObp0 none) ∧
    decode 0b0001_00_0000000000_1111111101001001#32 = .ok (.rdObp1 none) ∧
    decode 0b0001_00_0000000000_1111111101001111#32 = .ok (.rdVbk none) ∧
    decode 0b0001_00_0000000000_1111111101101000#32 = .ok (.rdBgpi none) ∧
    decode 0b0001_00_0000000000_1111111101101001#32 = .ok (.rdBgpd none) ∧
    decode 0b0001_00_0000000000_1111111101101010#32 = .ok (.rdObpi none) ∧
    decode 0b0001_00_0000000000_1111111101101011#32 = .ok (.rdObpd none) := by decide

theorem test_decode_palette_writes :
    decode 0b0010_0000_11100100_1111111101000111#32 = .ok (.wrBgp 0xE4) ∧
    decode 0b0010_0000_11010000_1111111101001000#32 = .ok (.wrObp0 0xD0) ∧
    decode 0b0010_0000_00011011_1111111101001001#32 = .ok (.wrObp1 0x1B) ∧
    decode 0b0010_0000_00000011_1111111101001111#32 = .ok (.wrVbk 0x03) ∧
    decode 0b0010_0000_10111110_1111111101101000#32 = .ok (.wrBgpi 0xBE) ∧
    decode 0b0010_0000_01111111_1111111101101001#32 = .ok (.wrBgpd 0x7F) ∧
    decode 0b0010_0000_10000000_1111111101101010#32 = .ok (.wrObpi 0x80) ∧
    decode 0b0010_0000_00010010_1111111101101011#32 = .ok (.wrObpd 0x12) := by decide

theorem test_decode_io_and_unmapped :
    decode 0b0001_00_0000000000_1111111101000110#32 = .ok (.rdIo 0xFF46 none) ∧
    decode 0b0010_0000_00001001_1111111101111111#32 = .ok (.wrIo 0xFF7F 0x09) ∧
    decode 0b0001_00_0000000000_1111111110000000#32 = .ok (.rdUnmapped 0xFF80 none) ∧
    decode 0b0010_0000_00000000_1111111010100000#32 = .ok (.wrUnmapped 0xFEA0 0x00) := by decide

theorem test_decode_commands :
    decode 0b0011_0000000000000000000001010000#32 = .ok (.update 80) ∧
    decode 0b0100_0000000000000000000000000000#32 = .ok .renderScanline ∧
    decode 0b0101_0000000000000000000000000000#32 = .ok .renderScreen ∧
    decode 0b0110_0000000000000000000000000000#32 = .ok .getMode ∧
    decode 0b0111_00000000000000000000_00000001#32 = .ok (.selectSyspal 1) := by decide

/-- The reserved words of 95_test_vectors.md §1.10, refused by name. -/
theorem test_decode_reserved :
    decode 0x00000000 = .error .reservedOp ∧ decode 0x80000000 = .error .reservedOp ∧ decode 0xF0000000 = .error .reservedOp ∧
    decode 0x14008000 = .error .reservedBov ∧ decode 0x10018000 = .error .reservedBits ∧
    decode 0x21008000 = .error .reservedBits ∧ decode 0x40000001 = .error .reservedBits ∧
    decode 0x70000100 = .error .reservedBits := by decide

/-- The region edges of 95_test_vectors.md §1.10. -/
theorem test_decode_edges :
    decode 0x10007FFF = .ok (.rdUnmapped 0x7FFF none) ∧ decode 0x100097FF = .ok (.rdTile 0x97FF none) ∧
    decode 0x10009800 = .ok (.rdMap 0x9800 none) ∧ decode 0x1000A000 = .ok (.rdUnmapped 0xA000 none) ∧
    decode 0x1000FF4C = .ok (.rdIo 0xFF4C none) ∧ decode 0x1000FF7F = .ok (.rdIo 0xFF7F none) := by decide

/-- The table's words, as the host numbers them: operand bits above `nbits` are 0. -/
theorem test_decodeTableWord :
    decodeTableWord 32 0x1000FF41 = some (.rdStat none) ∧ decodeTableWord 32 0x30000000 = some (.update 0) ∧
      decodeTableWord 32 0x14008000 = none := by decide

/-! ## Well-formedness: an ill-formed term for each check -/

theorem test_wf_refuses :
    (Instr.rdTile 0x9800 none).wf = false ∧ (Instr.wrTile 0x7FFF 0).wf = false ∧ (Instr.rdMap 0x97FF none).wf = false ∧
    (Instr.wrMap 0xA000 0).wf = false ∧ (Instr.rdOam 0xFEA0 none).wf = false ∧ (Instr.wrOam 0xFDFF 0).wf = false ∧
    (Instr.rdIo 0xFF40 none).wf = false ∧ (Instr.wrIo 0xFF80 0).wf = false ∧ (Instr.rdUnmapped 0xFF46 none).wf = false ∧
    (Instr.wrUnmapped 0x8000 0).wf = false ∧ (Instr.update 268435456).wf = false ∧ (Instr.selectSyspal 256).wf = false := by decide

theorem test_wf_accepts :
    (Instr.rdTile 0x97FF none).wf = true ∧ (Instr.wrMap 0x9800 0).wf = true ∧ (Instr.rdOam 0xFE9F none).wf = true ∧
    (Instr.rdIo 0xFF46 none).wf = true ∧ (Instr.rdUnmapped 0xFF80 none).wf = true ∧ (Instr.update 268435455).wf = true ∧
    (Instr.selectSyspal 255).wf = true := by decide

/-! ## Reset -/

/-- 70_reset_and_hazards.md rule R360. -/
theorem test_reset : State.reset.stat = 0x02 ∧ State.reset.ly = 0 ∧ State.reset.mode = .objectSearch ∧ State.reset.fault = none := by
  decide

theorem test_default_config_valid : (Config.default .dmg).Valid ∧ (Config.default .cgb).Valid := by decide

/-! ## Bus reads and writes (95_test_vectors.md §2.2) -/

/-- B1 and V3: the write goes to the active bank. -/
theorem test_wrTile :
    ran (fresh .dmg) 0x205A8000 (·.memRead (.tile .bank0) 0) = some 0x5A ∧
      ran ((fresh .cgb).setVramBank .bank1) 0x20AA8000 (fun t => (t.memRead (.tile .bank1) 0, t.memRead (.tile .bank0) 0)) =
        some (0xAA, 0x00) := by decide

/-- V4, V5: the override beats `VRAM_BANK`. -/
theorem test_rdTile :
    ran (((fresh .cgb).memWrite (.tile .bank0) 0 0x55).memWrite (.tile .bank1) 0 0xAA) 0x10008000 answered = some (.byte 0x55) ∧
      ran (((fresh .cgb).memWrite (.tile .bank0) 0 0x55).memWrite (.tile .bank1) 0 0xAA) 0x1C008000 answered =
        some (.byte 0xAA) := by decide

/-- B5. -/
theorem test_wrMap : ran (fresh .dmg) 0x20229800 (·.memRead (.map .bank0) 0) = some 0x22 := by decide

/-- B5, F2: the contract violation sets `FAULT` and answers nothing. -/
theorem test_rdMap :
    ran ((fresh .dmg).memWrite (.map .bank0) 0 0x22) 0x10009800 answered = some (.byte 0x22) ∧
      ran ((fresh .dmg).memWrite (.map .bank0) 0 0x22) 0x1C009800 (fun t => (t.fault, t.response)) =
        some (some (.dmgNonZeroBank 0x9800), .none) := by decide

/-- F3: after a fault every transaction is refused. -/
theorem test_blockFaulted : step (((fresh .dmg).setFault (some (.dmgNonZeroBank 0x9800))).withFetchWord 32 0x10009800) =
    .refused (.blockFaulted (.dmgNonZeroBank 0x9800)) := by rfl

/-- B6. -/
theorem test_oam :
    ran (fresh .dmg) 0x2010FE9F (·.memRead .oam 159) = some 0x10 ∧
      ran ((fresh .dmg).memWrite .oam 159 0x10) 0x1000FE9F answered = some (.byte 0x10) := by decide

/-- §1.9. -/
theorem test_lcdc :
    ran (fresh .dmg) 0x2091FF40 (io 0x40) = some 0x91 ∧ ran ((fresh .dmg).setIo 0x40 0x91) 0x1000FF40 answered = some (.byte 0x91) := by
  decide

/-- B10, S3. -/
theorem test_wrStat :
    ran (fresh .dmg) 0x20FFFF41 (io 0x41) = some 0xFA ∧ ran ((fresh .dmg).setIo 0x41 0x06) 0x20FFFF41 (io 0x41) = some 0xFE := by
  decide

/-- B10. -/
theorem test_rdStat : ran ((fresh .dmg).setIo 0x41 0xFA) 0x1000FF41 answered = some (.byte 0xFA) := by decide

/-- 41_bus_access.md rules R170 to R173. -/
theorem test_scroll :
    ran (fresh .dmg) 0x2001FF42 (fun t => (io 0x42 t, io 0x43 t)) = some (0x01, 0x00) ∧
    ran (fresh .dmg) 0x2004FF43 (fun t => (io 0x42 t, io 0x43 t)) = some (0x00, 0x04) ∧
    ran ((fresh .dmg).setIo 0x42 0xFF) 0x1000FF42 answered = some (.byte 0xFF) ∧
    ran ((fresh .dmg).setIo 0x43 0xFC) 0x1000FF43 answered = some (.byte 0xFC) := by decide

/-- B11. -/
theorem test_ly :
    ran (fresh .dmg) 0x2005FF44 (io 0x44) = some 0x00 ∧ ran (placed .dmg 41 0 0x42) 0x1000FF44 answered = some (.byte 41) := by decide

/-- §1.4; a write of LYC recomputes nothing (P2, steps 12 and 13). -/
theorem test_lyc :
    ran (placed .dmg 3 0 0x4A) 0x2003FF45 (fun t => (io 0x45 t, io 0x41 t)) = some (0x03, 0x4A) ∧
      ran ((fresh .dmg).setIo 0x45 0x28) 0x1000FF45 answered = some (.byte 0x28) := by decide

/-- 41_bus_access.md rules R178 to R183. -/
theorem test_palettes :
    ran (fresh .dmg) 0x20E4FF47 (io 0x47) = some 0xE4 ∧ ran (fresh .dmg) 0x20D0FF48 (io 0x48) = some 0xD0 ∧
    ran (fresh .dmg) 0x201BFF49 (io 0x49) = some 0x1B ∧ ran ((fresh .dmg).setIo 0x47 0xE4) 0x1000FF47 answered = some (.byte 0xE4) ∧
    ran ((fresh .dmg).setIo 0x48 0xD0) 0x1000FF48 answered = some (.byte 0xD0) ∧
    ran ((fresh .dmg).setIo 0x49 0x1B) 0x1000FF49 answered = some (.byte 0x1B) := by decide

/-- 41_bus_access.md rules R184 to R187: the raw WX. -/
theorem test_window_position :
    ran (fresh .dmg) 0x2005FF4A (io 0x4A) = some 0x05 ∧ ran (fresh .dmg) 0x2003FF4B (io 0x4B) = some 0x03 ∧
    ran ((fresh .dmg).setIo 0x4A 0x05) 0x1000FF4A answered = some (.byte 0x05) ∧
    ran ((fresh .dmg).setIo 0x4B 0x03) 0x1000FF4B answered = some (.byte 0x03) := by decide

/-- V1, V2, B12. -/
theorem test_rdVbk :
    ran (fresh .cgb) 0x1000FF4F answered = some (.byte 0xFE) ∧
    ran ((fresh .cgb).setVramBank .bank1) 0x1000FF4F answered = some (.byte 0xFF) ∧
    ran ((fresh .dmg).setIo 0x4F 0xFF) 0x1000FF4F answered = some (.byte 0xFF) := by decide

/-- V2, B12. -/
theorem test_wrVbk :
    ran (fresh .cgb) 0x2003FF4F (·.vramBank) = some .bank1 ∧ ran (fresh .dmg) 0x20FFFF4F (·.vramBank) = some .bank0 ∧
    ran (fresh .dmg) 0x20FFFF4F (io 0x4F) = some 0xFF := by decide

/-- P1, P3, P8, P9. -/
theorem test_palette_index :
    ran (fresh .cgb) 0x20BEFF68 (io 0x68) = some 0xBE ∧ ran ((fresh .cgb).setIo 0x68 0x81) 0x1000FF68 answered = some (.byte 0x81) ∧
    ran (fresh .cgb) 0x2080FF6A (io 0x6A) = some 0x80 ∧ ran ((fresh .cgb).setIo 0x6A 0x82) 0x1000FF6A answered = some (.byte 0x82) := by
  decide

/-- P2 (the index wraps 63 to 0), P4 (no increment), B14 (a plain byte on DMG). -/
theorem test_wrBgpd :
    ran ((fresh .cgb).setIo 0x68 0xBF) 0x2002FF69 (fun t => (t.memRead .bgpram 63, io 0x68 t)) = some (0x02, 0x80) ∧
    ran ((fresh .cgb).setIo 0x68 0x3E) 0x2044FF69 (fun t => (t.memRead .bgpram 62, io 0x68 t)) = some (0x44, 0x3E) ∧
    ran ((fresh .dmg).setIo 0x68 0x80) 0x2012FF69 (fun t => (io 0x69 t, io 0x68 t, t.memRead .bgpram 0)) = some (0x12, 0x80, 0x00) := by
  decide

/-- P6: a read increments too, and bit 6 is kept. -/
theorem test_rdBgpd :
    ran (((fresh .cgb).memWrite .bgpram 63 0x02).setIo 0x68 0xFF) 0x1000FF69 (fun t => (answered t, io 0x68 t)) =
        some (.byte 0x02, 0xC0) ∧
      ran ((fresh .dmg).setIo 0x69 0x12) 0x1000FF69 answered = some (.byte 0x12) := by decide

/-- P8, P9. -/
theorem test_obpd :
    ran ((fresh .cgb).setIo 0x6A 0x81) 0x207FFF6B (fun t => (t.memRead .obpram 1, io 0x6A t)) = some (0x7F, 0x82) ∧
    ran (((fresh .cgb).memWrite .obpram 0 0xFF).setIo 0x6A 0x00) 0x1000FF6B (fun t => (answered t, io 0x6A t)) =
      some (.byte 0xFF, 0x00) := by decide

/-- B15, B16. -/
theorem test_plain_io :
    ran (fresh .dmg) 0x2009FF7F (io 0x7F) = some 0x09 ∧ ran ((fresh .dmg).setIo 0x46 0xC1) 0x1000FF46 answered = some (.byte 0xC1) := by
  decide

/-- B7, B8. -/
theorem test_unmapped :
    ran (fresh .dmg) 0x1000FEA0 answered = some (.byte 0x00) ∧
      ran (fresh .dmg) 0x2055C000 (fun t => (t.io, t.oam, t.tile0, t.response)) = some ([(0x41, 0x02)], [], [], .none) := by decide

/-! ## UPDATE and GET_MODE (95_test_vectors.md §2.1) -/

/-- U12, and the largest step of §1.10. -/
theorem test_update_frames :
    ran (fresh .dmg) 0x30011250 (fun t => (answered t, io 0x41 t, t.dot)) = some (.update ⟨0, 2, true, true⟩ false, 0x02, 0) ∧
      ran (fresh .dmg) 0x3FFFFFFF (·.line) = some 86 := by decide

/-- U15: coincidence and ObjectSearch entry together. -/
theorem test_update_interrupts :
    ran (placed .dmg 153 455 0x61) 0x30000001 (fun t => (answered t, io 0x41 t, io 0x44 t, t.winLine)) =
      some (.update ⟨0, 2, true, false⟩ true, 0x66, 0x00, none) := by decide

/-- U24, U25. -/
theorem test_getMode :
    ran (fresh .dmg) 0x60000000 answered = some (.mode 2) ∧ ran (placed .dmg 0 80 0x03) 0x60000000 answered = some (.mode 3) := by decide

/-! ## Palette lookup (95_test_vectors.md §2.5) -/

/-- L1, L4, L6. -/
theorem test_lookup :
    ([0, 1, 2, 15, 16, 30, 31].map (expand5 (Config.default .cgb))) = [0, 8, 16, 123, 132, 247, 255] ∧
    ([0, 1, 2, 3].map (dmgColor (fresh .dmg) 0x27)) = [⟨0, 0, 0, 255⟩, ⟨170, 170, 170, 255⟩, ⟨85, 85, 85, 255⟩, Rgba.white] ∧
    ([0x03E0#16, 0x7C00#16, 0x4210#16].map (entryColor (Config.default .cgb))) =
      [⟨0, 255, 0, 255⟩, ⟨0, 0, 255, 255⟩, ⟨132, 132, 132, 255⟩] := by decide

/-- L7, L8. -/
theorem test_selectSyspal :
    ran (fresh .dmg) 0x70000000 (·.syspalSel) = some 0 ∧
      step ((fresh .dmg).withFetchWord 32 0x70000001) = .refused (.noSuchScheme 1) := ⟨by decide, rfl⟩

/-! ## Rendering (95_test_vectors.md §1.9, §2.3, §2.4) -/

/-- The setup BGT of §2.3 with LCDC `v`. -/
def bgt (v : Byte) : State :=
  ((((((fresh .dmg).setIo 0x47 0xE4).memWrite (.tile .bank0) 16 0xF0).memWrite (.tile .bank0) 17 0xCC).memWrite (.map .bank0) 0 1)).setIo
    0x40 v

/-- The red channels of the first `n` pixels of row 0. -/
def reds (n : Nat) (t : State) : List Byte := (List.range n).map (fun x => (t.pixel x 0).r)

/-- G1: K K L L D D W W W. -/
theorem test_renderScanline_background :
    ran (bgt 0x91) 0x40000000 (reds 9) = some [0, 0, 170, 170, 85, 85, 255, 255, 255] := by decide +kernel

/-- A2 of §2.4: a sprite behind the background shows only over color index 0. -/
theorem test_renderScanline_sprite :
    ran ((((((bgt 0x93).setIo 0x48 0xE4).memWrite (.tile .bank0) 81 0xFF).memWrite .oam 0 16).memWrite .oam 1 8).memWrite .oam 2 5
        |>.memWrite .oam 3 0x80) 0x40000000 (reds 9) = some [0, 0, 170, 170, 85, 85, 85, 85, 255] := by decide +kernel

/-- §1.9: with LCD_EN clear the frame is white, and the frame buffer keeps its pixels. -/
theorem test_renderScreen :
    ran (((fresh .dmg).setRow 0 [⟨0, 0, 0, 255⟩]).setIo 0x40 0x11) 0x50000000 (fun t => (answered t, reds 1 t)) =
        some (.frame [], [0]) ∧
      ran (((fresh .dmg).setRow 0 [⟨0, 0, 0, 255⟩]).setIo 0x40 0x91) 0x50000000 answered =
        some (.frame [(0, 0), (1, 0), (2, 0)]) := by decide

/-! ## Witnesses: for each statement with hypotheses, a concrete state and operands that meet them, clause by clause -/

theorem witness_DecodeOfEncode :
    (Instr.rdMap 0x9FFF (some .bank1)).wf = true ∧ (Instr.update 268435455).wf = true ∧ (Instr.selectSyspal 255).wf = true ∧
      (Instr.wrIo 0xFF7F 0xFF).wf = true := by decide

theorem witness_EncodeOfDecode : decode 0x1C009FFF = .ok (.rdMap 0x9FFF (some .bank1)) := by decide

/-- Each kind of reserved word. -/
theorem witness_ReservedWordsRefused :
    (fresh .dmg).fault = none ∧ ((fresh .dmg).setPending [0x14008000]).pending = 0x14008000 :: [] ∧
    ∀ w ∈ [0x0FFFFFFF#32, 0x80000000#32, 0x14008000#32, 0x10018000#32, 0x21008000#32, 0x40000001#32, 0x50000001#32, 0x60000001#32,
      0x70000100#32], ReservedWord w := by simp [ReservedWord, fresh, State.create]

theorem witness_StepRunsDecoded :
    (fresh .dmg).fault = none ∧ ((fresh .dmg).setPending [0x60000000]).pending = 0x60000000 :: [] ∧
      decode 0x60000000 = .ok .getMode ∧ (fresh .dmg).pending = [] := by decide

/-- A READ through bank 1, a WRITE with bank 1 selected, and a faulted block. -/
theorem witness_FaultOutcome :
    Violates (fresh .dmg) (.rdTile 0x8000 (some .bank1)) 0x8000 ∧ Violates ((fresh .dmg).setVramBank .bank1) (.wrMap 0x9FFF 0) 0x9FFF ∧
      ((fresh .dmg).setFault (some (.dmgNonZeroBank 0x8000))).fault = some (.dmgNonZeroBank 0x8000) := by
  unfold Violates
  decide

theorem witness_OnlyVramAccessFaults :
    (exec (.rdTile 0x8000 (some .bank1)) (fresh .dmg) =
        .next (((fresh .dmg).setFault (some (.dmgNonZeroBank 0x8000))).setResponse .none) ∧
      Violates (fresh .dmg) (.rdTile 0x8000 (some .bank1)) 0x8000) ∧
    exec .getMode (fresh .dmg) = .next ((fresh .dmg).setResponse (.mode 2)) ∧ ∀ a, ¬Violates (fresh .dmg) .getMode a :=
  ⟨⟨rfl, rfl, rfl⟩, rfl, fun _ h => by cases h.2⟩

theorem witness_ResetIsDefaultInstance : Region.oam ≠ .fb ∧ ¬(Region.oam = .io ∧ 0 = 0x41) := by decide

/-- Valid configurations of both profiles, one with the parameters at their bounds, and an `INIT_MEM` with a byte at each end. -/
theorem witness_NewInstanceMeetsInv :
    (Config.default .dmg).Valid ∧ Config.Valid { Config.default .cgb with oamLen := 1, xferLen := 454, frameDoneLine := 0 } ∧
      InitMem.wf ⟨[(0, 1), (6143, 255)], [(6143, 1)], [(2047, 7)], [], [(159, 3)], [(63, 1)], [(0, 1)]⟩ := by
  unfold InitMem.wf
  decide

theorem fresh_inv : (fresh .dmg).Inv where
  cfgValid := by decide
  memories := by rintro (⟨_ | _⟩ | ⟨_ | _⟩ | _ | _ | _ | _ | _) <;> decide
  modeDerived := by decide
  lyIsLine := by decide
  statMode := by decide
  dmgBank := by decide
  schemeExists := by decide
  cgbUnused := by decide

/-- A step from a state with the invariant, on `MODE`. -/
theorem witness_StepKeepsInv :
    (fresh .dmg).Inv ∧ step ((fresh .dmg).withFetchWord 32 0x60000000) = .next ((fresh .dmg).setResponse (.mode 2)) :=
  ⟨fresh_inv, rfl⟩

theorem witness_ConfigurationIsFixed :
    step ((fresh .cgb).withFetchWord 32 0x60000000) = .next ((fresh .cgb).setResponse (.mode 2)) := rfl

theorem witness_DmgCannotReachColorMemory :
    (fresh .dmg).cfg.variant = .dmg ∧ (fresh .dmg).vramBank = .bank0 ∧
      step ((fresh .dmg).withFetchWord 32 0x60000000) = .next ((fresh .dmg).setResponse (.mode 2)) ∧
      step ((fresh .dmg).withFetchWord 32 0x70000001) = .refused (.noSuchScheme 1) := ⟨rfl, rfl, rfl, rfl⟩

/-- An instruction outside each clause's exception. -/
theorem witness_OwnersOfState :
    exec .getMode (fresh .dmg) = .next ((fresh .dmg).setResponse (.mode 2)) ∧ (∀ n, Instr.getMode ≠ .update n) ∧
      Instr.getMode ≠ .renderScanline ∧ (∀ c, Instr.getMode ≠ .selectSyspal c) ∧ ∀ v, Instr.getMode ≠ .wrVbk v :=
  ⟨rfl, by simp⟩

/-- A state for each clause: a visible line with the window drawn, one with it skipped, a blanked line, and an UPDATE to line 0. -/
theorem witness_WhoWritesWinLine :
    (((fresh .dmg).setIo 0x40 0xF1).ioByte 0x44).toNat < 144 ∧ ¬WindowSkipped ((fresh .dmg).setIo 0x40 0xF1) 0 ∧
    WindowSkipped ((fresh .dmg).setIo 0x40 0xD1) 0 ∧ 144 ≤ ((placed .dmg 144 0 0x01).ioByte 0x44).toNat ∧
    (ran (placed .dmg 153 455 0x01) 0x30000001 (io 0x44) = some 0 ∧ (placed .dmg 153 455 0x01).ioByte 0x44 ≠ 0) := by
  unfold WindowSkipped
  decide

/-- Both ends of the pattern and the map range, on either profile and bank. -/
theorem witness_VramReadsAndWrites :
    Violates (fresh .dmg) (.rdTile 0x8000 (some .bank1)) 0x8000 ∧ Violates (fresh .dmg) (.rdMap 0x9FFF (some .bank1)) 0x9FFF ∧
    (∀ v b, ¬(v = .dmg ∧ b = .bank1) → ¬(((fresh v).setVramBank b).cfg.variant = .dmg ∧ b = .bank1) ∧
      b = (none : BankOverride).getD ((fresh v).setVramBank b).vramBank) ∧
    (∀ a ∈ [0x8000#16, 0x97FF#16], 0x8000 ≤ a.toNat ∧ a.toNat ≤ 0x97FF) ∧
    ∀ a ∈ [0x9800#16, 0x9FFF#16], 0x9800 ≤ a.toNat ∧ a.toNat ≤ 0x9FFF :=
  ⟨⟨rfl, rfl⟩, ⟨rfl, rfl⟩, fun _ _ h => ⟨h, rfl⟩, by simp, by simp⟩

theorem witness_OamReadsAndWrites : ∀ a ∈ [0xFE00#16, 0xFE9F#16], 0xFE00 ≤ a.toNat ∧ a.toNat ≤ 0xFE9F := by simp

theorem witness_VbkSelectsBankOnCgb : (fresh .cgb).cfg.variant = .cgb ∧ (fresh .dmg).cfg.variant = .dmg := ⟨rfl, rfl⟩

theorem witness_PaletteData :
    (fresh .cgb).cfg.variant = .cgb ∧ (fresh .dmg).cfg.variant = .dmg ∧
      ¬(Region.oam = .bgpram ∧ 0 = ((fresh .cgb).ioByte 0x68).toNat % 64) ∧ ¬(Region.oam = .io ∧ 0 = 0x68) := by decide

theorem witness_PlainIoReadsAndWrites :
    ∀ a ∈ [0xFF00#16, 0xFF3F#16, 0xFF46#16, 0xFF4C#16, 0xFF6C#16, 0xFF7F#16],
      0xFF00 ≤ a.toNat ∧ a.toNat ≤ 0xFF7F ∧ Addr.isNamed a = false := by simp [Addr.isNamed]

theorem witness_UnmappedReadsAndWrites :
    ∀ a ∈ [0x0000#16, 0x7FFF#16, 0xA000#16, 0xFDFF#16, 0xFEA0#16, 0xFEFF#16, 0xFF80#16, 0xFFFF#16],
      ¬(0x8000 ≤ a.toNat ∧ a.toNat ≤ 0x9FFF) ∧ ¬(0xFE00 ≤ a.toNat ∧ a.toNat ≤ 0xFE9F) ∧
        ¬(0xFF00 ≤ a.toNat ∧ a.toNat ≤ 0xFF7F) := by simp

theorem witness_BusTransactionsLeaveDisplayState :
    (Instr.rdTile 0x8000 none).wf = true ∧ (Instr.rdTile 0x8000 none).isRead = true ∧
      (∀ a, ¬Violates (fresh .dmg) (.rdTile 0x8000 none) a) ∧ (Instr.wrStat 0).wf = true ∧ (Instr.wrStat 0).isWrite = true ∧
      ∀ a ∈ [0x7FFF#16, 0xA000#16, 0xFF40#16], ¬(0x8000 ≤ a.toNat ∧ a.toNat ≤ 0x9FFF) :=
  ⟨by decide, rfl, fun _ h => (by cases h.2), rfl, rfl, by simp⟩

theorem witness_BusTransactionsKeepFlags :
    (Instr.wrLy 5).wf = true ∧ (Instr.wrLy 5).isWrite = true ∧
      exec (.wrLy 5) (fresh .dmg) = .next ((fresh .dmg).setResponse .none) ∧ (∀ a, ¬Violates (fresh .dmg) (.wrLy 5) a) ∧
    (Instr.rdTile 0x8000 (some .bank1)).wf = true ∧ (Instr.rdTile 0x8000 (some .bank1)).isRead = true ∧
      exec (.rdTile 0x8000 (some .bank1)) (fresh .dmg) =
        .next (((fresh .dmg).setFault (some (.dmgNonZeroBank 0x8000))).setResponse .none) ∧
      Violates (fresh .dmg) (.rdTile 0x8000 (some .bank1)) 0x8000 :=
  ⟨rfl, rfl, rfl, fun _ h => (by cases h.2), by decide, rfl, rfl, rfl, rfl⟩

/-- A READ without a side effect, the two that advance an index, and the contract violation. -/
theorem witness_ReadSideEffects :
    (Instr.rdLy none).isRead = true ∧ exec (.rdLy none) (fresh .cgb) = .next ((fresh .cgb).setResponse (.byte 0)) ∧
    (∀ a, ¬Violates (fresh .cgb) (.rdLy none) a) ∧ (¬∃ bov, Instr.rdLy none = .rdBgpd bov) ∧
    (((fresh .cgb).setIo 0x68 0x80).ioByte 0x68).getLsbD 7 = true ∧ (((fresh .cgb).setIo 0x6A 0xBF).ioByte 0x6A).getLsbD 7 = true ∧
    Violates (fresh .dmg) (.rdMap 0x9800 (some .bank1)) 0x9800 :=
  ⟨rfl, rfl, fun _ h => (by cases h.1), by simp, by decide, by decide, rfl, rfl⟩

/-- The ends of each range, and the addresses beside the excluded ones. -/
theorem witness_ReadAfterWrite :
    (∀ a ∈ [0x8000#16, 0x9FFF#16, 0xFE00#16, 0xFE9F#16, 0xFF00#16, 0xFF40#16, 0xFF42#16, 0xFF43#16, 0xFF45#16, 0xFF4F#16, 0xFF69#16,
      0xFF7F#16], PlainStorage (fresh .dmg) a) ∧
    ∀ a ∈ [0x8000#16, 0xFF46#16, 0xFF4E#16, 0xFF50#16, 0xFF68#16, 0xFF6A#16, 0xFF6C#16], PlainStorage (fresh .cgb) a := by
  simp [PlainStorage, fresh, State.create, Config.default]

theorem witness_NoAccessLockingByMode : (Instr.rdTile 0x8000 none).isRead = true ∧ (Instr.wrOam 0xFE00 1).isWrite = true := by decide

/-- A step into each mode, at the first and the last cycle of it (U1 to U6, U11). -/
theorem witness_ModeFollowsPosition :
    ran (fresh .dmg) 0x30000000 (fun t => (t.line, t.dot)) = some (0, 0) ∧
    ran (fresh .dmg) 0x3000004F (fun t => (t.line, t.dot)) = some (0, 79) ∧
    ran (fresh .dmg) 0x30000050 (fun t => (t.line, t.dot)) = some (0, 80) ∧
    ran (fresh .dmg) 0x300000FB (fun t => (t.line, t.dot)) = some (0, 251) ∧
    ran (fresh .dmg) 0x300000FC (fun t => (t.line, t.dot)) = some (0, 252) ∧
    ran (fresh .dmg) 0x300001C7 (fun t => (t.line, t.dot)) = some (0, 455) ∧
    ran (fresh .dmg) 0x3001007F (fun t => (t.line, t.dot)) = some (143, 455) ∧
    ran (fresh .dmg) 0x30010080 (fun t => (t.line, t.dot)) = some (144, 0) := by decide

/-- A step that keeps LY, one that changes it to LYC with the enable set (U20), one that changes it to 0. -/
theorem witness_ScanlineUpdate :
    ran (fresh .dmg) 0x30000004
      (fun t => decide (t.line.val = ((fresh .dmg).ioByte 0x44).toNat ∧ t.mode = (fresh .dmg).mode)) = some true ∧
    ran (((fresh .dmg).setIo 0x45 1).setIo 0x41 0x42) 0x300001C8
      (fun t => decide (t.line.val ≠ 0 ∧ t.line.val = (t.ioByte 0x45).toNat ∧ (t.ioByte 0x41).getLsbD 6 = true)) = some true ∧
    ran (placed .dmg 153 455 0x01) 0x30000001 (fun t => decide (t.line.val = 0)) = some true := by decide

/-- The state after reset, and one in the middle of a frame. -/
theorem witness_UpdateCornerCases :
    (fresh .dmg).mode = modeOf (fresh .dmg).cfg (fresh .dmg).line (fresh .dmg).dot ∧ (fresh .dmg).ly = lineByte (fresh .dmg).line ∧
    (placed .cgb 77 300 0x00).mode = modeOf (placed .cgb 77 300 0x00).cfg (placed .cgb 77 300 0x00).line (placed .cgb 77 300 0x00).dot ∧
    (placed .cgb 77 300 0x00).ly = lineByte (placed .cgb 77 300 0x00).line := by decide

theorem witness_GetModeAnswersId :
    (placed .dmg 0 252 0x00).mode = .hBlank ∧ (placed .dmg 153 455 0x01).mode = .vBlank ∧ (fresh .dmg).mode = .objectSearch ∧
      (placed .dmg 143 80 0x03).mode = .pixelTransfer := by decide

theorem witness_SelectSyspal : 0 < (fresh .dmg).cfg.syspal.length ∧ (fresh .dmg).cfg.syspal.length ≤ 1 := by decide

theorem witness_MonochromeLookup : (fresh .dmg).cfg.syspal[(fresh .dmg).syspalSel]? = some Scheme.grayscale := rfl

/-- A color palette RAM with a white, a white with bit 15 set, and a black entry. -/
theorem witness_ColorExtremes :
    Config.Valid (fresh .cgb).cfg ∧
    (((fresh .cgb).memWrite .bgpram 0 0xFF).memWrite .bgpram 1 0x7F).memRead .bgpram (8 * 0 + 2 * (0#2).toNat) = 0xFF ∧
    (((fresh .cgb).memWrite .bgpram 0 0xFF).memWrite .bgpram 1 0x7F).memRead .bgpram (8 * 0 + 2 * (0#2).toNat + 1) = 0x7F ∧
    (((fresh .cgb).memWrite .obpram 62 0xFF).memWrite .obpram 63 0xFF).memRead .obpram (8 * 7 + 2 * (3#2).toNat + 1) = 0xFF ∧
    (fresh .cgb).memRead .bgpram (8 * 7 + 2 * (3#2).toNat) = 0x00 := by decide

theorem witness_ColorLookup :
    0x7FFF = ((((fresh .cgb).memWrite .bgpram 0 0xFF).memWrite .bgpram 1 0x7F).memRead .bgpram (8 * 0 + 2 * (0#2).toNat)).toNat +
      256 * ((((fresh .cgb).memWrite .bgpram 0 0xFF).memWrite .bgpram 1 0x7F).memRead .bgpram (8 * 0 + 2 * (0#2).toNat + 1)).toNat := by
  decide

theorem witness_RenderScreen :
    (((fresh .dmg).setIo 0x40 0x80).ioByte 0x40).getLsbD 7 = true ∧ ((fresh .dmg).ioByte 0x40).getLsbD 7 = false := by decide

/-- The last visible line and the first blanked one. -/
theorem witness_RenderScanline :
    143 = ((placed .dmg 143 0 0x02).ioByte 0x44).toNat ∧ 144 = ((placed .dmg 144 0 0x01).ioByte 0x44).toNat := by decide

theorem witness_BackgroundRow :
    0 = ((bgt 0x91).ioByte 0x44).toNat ∧ ((bgt 0x91).ioByte 0x40).getLsbD 5 = false ∧ ((bgt 0x91).ioByte 0x40).getLsbD 1 = false := by
  decide

/-- W1, W5 (drawn), W6, W7, W8 (skipped). -/
theorem witness_WindowRow :
    ((bgt 0xF1).ioByte 0x40).getLsbD 1 = false ∧ ¬WindowSkipped ((bgt 0xF1).setIo 0x4B 7) 0 ∧
    ¬WindowSkipped ((bgt 0xF1).setIo 0x4B 166) 0 ∧ WindowSkipped ((bgt 0xF1).setIo 0x4B 167) 0 ∧
    WindowSkipped ((bgt 0xF1).setIo 0x4A 1) 0 ∧ WindowSkipped (bgt 0xD1) 0 := by
  unfold WindowSkipped
  decide

theorem witness_LayerPixelLookup :
    (fresh .cgb).cfg.variant = .cgb ∧ (fresh .dmg).cfg.variant = .dmg ∧ 255 < 256 ∧
      2047 = 1024 * true.toNat + 32 * (255 / 8) + 255 / 8 ∧ ((bgt 0x91).ioByte 0x40).getLsbD 4 = true ∧ ((bgt 0x81).ioByte 0x40).getLsbD 4 = false ∧ (0x7F#8).toNat < 128 ∧
      128 ≤ (0x80#8).toNat := by decide

/-- One sprite whose bytes are `y, x, tile, attr`, at index `k`, with LCDC `v`. -/
def spriteState (variant : Variant) (v : Byte) (k : Nat) (y x tile attr : Byte) : State :=
  (((((fresh variant).setIo 0x40 v).memWrite .oam (4 * k) y).memWrite .oam (4 * k + 1) x).memWrite .oam (4 * k + 2) tile).memWrite .oam
    (4 * k + 3) attr

/-- The extremes of the qualifying positions (E2, E7, H2, H6), on 8 and 16 rows. -/
theorem witness_CompositorIndicesInside :
    qualifies (spriteState .dmg 0x97 39 1 8 0xFF 0x40) 0 ((spriteState .dmg 0x97 39 1 8 0xFF 0x40).sprite 39) = true ∧
    qualifies (spriteState .dmg 0x93 0 159 167 0xFF 0x00) 143 ((spriteState .dmg 0x93 0 159 167 0xFF 0x00).sprite 0) = true := by
  decide

/-- Sprite 3 shows at column 0 of row 0; with the layer off, and where no sprite is drawn, nothing does. -/
theorem witness_SpritePriority :
    ShowsAt ((spriteState .cgb 0x93 3 16 8 4 0).memWrite (.tile .bank0) 64 0xFF) 0 0 3 ∧
    InDrawnSet ((spriteState .cgb 0x93 3 16 8 4 0).memWrite (.tile .bank0) 64 0xFF) 0 3 ∧
    (((spriteState .cgb 0x93 3 16 8 4 0).memWrite (.tile .bank0) 64 0xFF).ioByte 0x40).getLsbD 1 = true ∧
    (∀ j < 40, j ≠ 3 → ¬QualifiesOn ((spriteState .cgb 0x93 3 16 8 4 0).memWrite (.tile .bank0) 64 0xFF) 0 j) ∧
    (∀ j < 40, ¬QualifiesOn (fresh .dmg) 0 j) ∧ ((fresh .dmg).ioByte 0x40).getLsbD 1 = false := by
  refine ⟨?_, ⟨by decide, ?_, fun h => by cases h⟩, by decide, ?_, ?_, by decide⟩
  · unfold ShowsAt
    decide +kernel
  · unfold QualifiesOn
    decide +kernel
  · unfold QualifiesOn
    decide +kernel
  · unfold QualifiesOn
    decide +kernel

theorem witness_BackgroundTest :
    (((fresh .cgb).setIo 0x40 0x92).cfg.variant = .cgb ∧ (((fresh .cgb).setIo 0x40 0x92).ioByte 0x40).getLsbD 0 = false) ∧
    ((((fresh .cgb).setIo 0x40 0x93).ioByte 0x40).getLsbD 0 = true ∧ (⟨1, Rgba.white, true⟩ : LayerPixel).prio = true) ∧
    (fresh .dmg).cfg.variant = .dmg := by decide

/-- T3 of §2.4: a 16-row sprite, vertically flipped, whose row 0 reads row 15 of the second tile; and H6, its last column. -/
theorem witness_SpritePixelFetch :
    (fresh .cgb).cfg.variant = .cgb ∧ (fresh .dmg).cfg.variant = .dmg ∧
    QualifiesOn (spriteState .dmg 0x97 0 16 8 4 0x40) 0 0 ∧ (8 : Nat) ≤ 0 + 8 ∧ 0 < 8 ∧
    15 = (if ((spriteState .dmg 0x97 0 16 8 4 0x40).memRead .oam (4 * 0 + 3)).getLsbD 6 then
        (if ((spriteState .dmg 0x97 0 16 8 4 0x40).ioByte 0x40).getLsbD 2 then 16 else 8) - 1 -
          (0 + 16 - ((spriteState .dmg 0x97 0 16 8 4 0x40).memRead .oam (4 * 0)).toNat)
      else 0 + 16 - ((spriteState .dmg 0x97 0 16 8 4 0x40).memRead .oam (4 * 0)).toNat) ∧
    QualifiesOn (spriteState .cgb 0x93 5 159 167 6 0x28) 143 5 ∧ (167 : Nat) ≤ 159 + 8 ∧ 159 < 167 := by
  unfold QualifiesOn
  decide

/-- Two states that differ in `VRAM_BANK` and LYC. -/
theorem witness_RenderDependsOnInputsOnly :
    SameRenderInputs (fresh .cgb) (((fresh .cgb).setVramBank .bank1).setIo 0x45 9) ∧ ((fresh .cgb).ioByte 0x44).toNat < 144 := by
  refine ⟨⟨by simp, by simp, by decide, ?_, (by intro h; cases h), fun _ => ?_⟩, by decide⟩
  · intro r hr j
    rw [memRead_setIo_ne _ (by rintro ⟨rfl, -⟩; simp at hr)]
    simp
  · intro r hr j
    rw [memRead_setIo_ne _ (by rintro ⟨rfl, -⟩; simp at hr)]
    simp

theorem witness_BgcolSetsPaletteEntry : (fresh .cgb).cfg.variant = .cgb ∧ (fresh .cgb).fault = none ∧ 7 < 8 ∧ 3 < 4 := by decide

theorem witness_SpriteSetsTableEntry : (fresh .dmg).fault = none ∧ 39 < 40 := by decide

end Sys2Proof.Tests
end

