-- ==== Sys2Proof/Proofs/Scope.lean ====
section
/-!
PROOF. The statements of 00_scope.md: the configuration is fixed (rule R3), and the compositors index inside their regions
(rule R10). First what a decoded word and a step can be, for every invariant; then one bound per quantity that an index is
computed from.
-/

namespace Sys2Proof

/-- The operands read out of a word fit the word's fields (30_encoding.md rule R93). -/
theorem decodeFields_fits {w : Word} {t : Transaction} (h : decodeFields w = .ok t) : t.fits := by
  unfold decodeFields at h
  repeat' split at h
  all_goals cases h
  · trivial -- READ
  · trivial -- WRITE
  · exact (field w 0 28).isLt -- UPDATE
  · trivial -- RENDER_SCANLINE
  · trivial -- RENDER_SCREEN
  · trivial -- GET_MODE
  · exact (field w 0 8).isLt -- SELECT_SYSPAL

/-- A decoded instruction is well formed. -/
theorem decode_wf {w : Word} {i : Instr} (h : decode w = .ok i) : i.wf = true := by
  unfold decode at h
  cases ht : decodeFields w with
  | error e => simp [ht, Except.map] at h
  | ok t =>
    simp only [ht, Except.map, Except.ok.injEq] at h
    exact h ▸ (instr_spec (decodeFields_fits ht)).2

end Sys2Proof

namespace Sys2Proof.Machine

/-! ## The configuration (rule R3) -/

/-- A step is idle, or is an effect of a well-formed instruction on the state with its word taken. -/
theorem step_effect {s t : State} (h : step s = .next t) :
    t = s ∨ ∃ rest i, i.wf = true ∧ Effect (s.setPending rest) i t := by
  rcases step_cases h with ⟨-, -, rfl⟩ | ⟨w, rest, i, -, -, hd, he⟩
  · exact .inl rfl
  · exact .inr ⟨rest, i, decode_wf hd, exec_effect (decode_wf hd) he⟩

/-- No effect of a transaction touches the configuration. -/
theorem Effect.cfg_eq {s t : State} {i : Instr} (h : Effect s i t) : t.cfg = s.cfg := by
  cases h with
  | update n resp _ => exact (updated_registers s n).1
  | _ => simp

/-- Settles O13: a step is idle or an effect of one transaction, and no effect touches the configuration. -/
theorem configurationIsFixed : Obligations.ConfigurationIsFixed := by
  intro s t h
  rcases step_effect h with rfl | ⟨rest, i, -, he⟩
  · rfl
  · rw [he.cfg_eq, State.setPending_cfg]

/-! ## What the compositors' indices are computed from (rule R10) -/

/-- The cell of a map-space pixel lies in its table of 1024 cells. -/
theorem cellOffset_lt (m : Bool) {px py : Nat} (hx : px < 256) (hy : py < 256) : cellOffset m px py < 2048 := by
  have hm : m.toNat ≤ 1 := m.toNat_le
  unfold cellOffset
  omega

/-- The signed tile numbers are the 256 from 128 on (30_encoding.md rule R104), so all lie below 384. -/
theorem bgTile_lt (s : State) (idx : Byte) : bgTile s idx < 384 := by
  have hu := idx.isLt
  have hi : idx.toInt < 128 := BitVec.toInt_lt
  unfold bgTile
  split <;> omega

theorem flip7_lt (f : Bool) {i : Nat} (hi : i < 8) : flip7 f i < 8 := by
  unfold flip7
  split <;> omega

/-- A row of one of the 384 tiles has both its bytes in the tile store (30_encoding.md rule R102). -/
theorem tileRow_inside {t r : Nat} (ht : t < 384) (hr : r < 8) (b : Bank) : 16 * t + 2 * r + 1 < Region.size (.tile b) := by
  simp only [Region.size]
  omega

theorem metaPal_lt (b : Byte) : metaPal b < 8 := (b.extractLsb' 0 3).isLt

theorem attrCgbPal_lt (b : Byte) : attrCgbPal b < 8 := (b.extractLsb' 0 3).isLt

/-- A color of one of the eight palettes has both its bytes below 64 (20_memory.md rule R69). -/
theorem paletteEntry_lt {p : Nat} (hp : p < 8) (ci : BitVec 2) : 8 * p + 2 * ci.toNat + 1 < 64 := by
  have hc := ci.isLt
  omega

theorem spriteTile_lt (s : State) (y : Nat) (sp : Sprite) : spriteTile s y sp < 256 := by
  unfold spriteTile
  split <;> exact BitVec.isLt _

/-- A row on which a sprite qualifies is one of the sprite's rows, flipped or not (43_sprites.md rules R262, R265). -/
theorem spriteRow_lt {s : State} {y : Nat} {sp : Sprite} (h : qualifies s y sp = true) : spriteRow s y sp < spriteHeight s := by
  simp only [qualifies, Bool.and_eq_true, decide_eq_true_eq] at h
  obtain ⟨⟨⟨htop, hbottom⟩, -⟩, -⟩ := h
  simp only [spriteRow]
  split <;> omega

/-- Settles O53: each index is linear in quantities bounded above, so it stays below the region's size. -/
theorem compositorIndicesInside : Obligations.CompositorIndicesInside := by
  refine ⟨fun m px py => cellOffset_lt m, fun s idx f py => ?_, fun k hk => ?_, fun b ci => ?_, fun x y hx hy => ?_,
    fun s y k _ hq => ⟨?_, spriteRow_lt hq⟩⟩
  · exact tileRow_inside (bgTile_lt s idx) (flip7_lt f (Nat.mod_lt py (by decide))) .bank0
  · simp only [Region.size]
    omega
  · exact ⟨paletteEntry_lt (metaPal_lt b) ci, paletteEntry_lt (attrCgbPal_lt b) ci⟩
  · simp only [Region.size]
    omega
  · have ht := spriteTile_lt s y (s.sprite k)
    exact tileRow_inside (by omega) (Nat.mod_lt _ (by decide)) .bank0

end Sys2Proof.Machine
end

