-- ==== Sys2Proof/Proofs/State.lean ====
section
/-!
PROOF. The statements of 10_state.md: every step keeps the invariant, who owns which element of the state (rules R34, R41 to
R44, R46), and that `DMG` does not reach the memories of the color profile (rules R34, R37, R38, R40). What one transaction can do
is `Effect` (Laws/Exec.lean); a lemma here says what an effect keeps, and the statements cite it.
-/

namespace Sys2Proof.Machine

/-! ## The invariant (rules R34, R43, R45) -/

/-- The invariant is about these elements of the state and no others. -/
theorem State.Inv.of_same {s t : State} (h : s.Inv) (hcfg : t.cfg = s.cfg) (hregion : ∀ r, t.region r = s.region r)
    (hmode : t.mode = s.mode) (hline : t.line = s.line) (hdot : t.dot = s.dot) (hbank : t.vramBank = s.vramBank)
    (hsel : t.syspalSel = s.syspalSel) : t.Inv := by
  have hio : ∀ k, t.ioByte k = s.ioByte k := fun k => by simp only [State.ioByte, State.memRead, hregion]
  exact {
    cfgValid := by rw [hcfg]; exact h.cfgValid
    memories := fun r => by rw [hregion]; exact h.memories r
    modeDerived := by rw [hmode, hcfg, hline, hdot]; exact h.modeDerived
    lyIsLine := by rw [State.ly, hio, hline]; exact h.lyIsLine
    statMode := by rw [State.stat, hio, hmode]; exact h.statMode
    dmgBank := by rw [hcfg, hbank]; exact h.dmgBank
    schemeExists := by rw [hcfg, hsel]; exact h.schemeExists
    cgbUnused := by rw [hcfg, hio, hio, hio]; exact h.cgbUnused }

theorem State.Inv.setResponse {s : State} (h : s.Inv) (x : Response) : (s.setResponse x).Inv :=
  h.of_same rfl (by simp) rfl rfl rfl rfl rfl

theorem State.Inv.setFault {s : State} (h : s.Inv) (x : Option Fault) : (s.setFault x).Inv :=
  h.of_same rfl (by simp) rfl rfl rfl rfl rfl

theorem State.Inv.setWinLine {s : State} (h : s.Inv) (x : Option Nat) : (s.setWinLine x).Inv :=
  h.of_same rfl (by simp) rfl rfl rfl rfl rfl

theorem State.Inv.setPending {s : State} (h : s.Inv) (ws : List Word) : (s.setPending ws).Inv :=
  h.of_same rfl (by simp) rfl rfl rfl rfl rfl

/-- On `CGB` any bank may be selected. -/
theorem State.Inv.setVramBank {s : State} (h : s.Inv) (hv : s.cfg.variant = .cgb) (b : Bank) : (s.setVramBank b).Inv where
  cfgValid := h.cfgValid
  memories r := by simpa using h.memories r
  modeDerived := h.modeDerived
  lyIsLine := h.lyIsLine
  statMode := h.statMode
  dmgBank hd := by simp [hv] at hd
  schemeExists := h.schemeExists
  cgbUnused := h.cgbUnused

/-- A scheme of the table may be selected. -/
theorem State.Inv.setSyspalSel {s : State} (h : s.Inv) {c : Nat} (hc : c < s.cfg.syspal.length) : (s.setSyspalSel c).Inv where
  cfgValid := h.cfgValid
  memories r := by simpa using h.memories r
  modeDerived := h.modeDerived
  lyIsLine := h.lyIsLine
  statMode := h.statMode
  dmgBank := h.dmgBank
  schemeExists := hc
  cgbUnused := h.cgbUnused

/-- A byte a bus WRITE can store. -/
theorem State.Inv.store {s : State} (h : s.Inv) {r : Region} {k : Nat} {v : Byte} (hs : Storable s r k v) :
    (s.memWrite r k v).Inv where
  cfgValid := by simpa using h.cfgValid
  memories := memWrite_keeps_wf h.memories hs.inside
  modeDerived := by simpa using h.modeDerived
  lyIsLine := by
    have hly : (s.memWrite r k v).ly = s.ly := ioByte_memWrite_ne s fun ⟨hr, hk⟩ => hs.notLy hr hk
    simpa [hly] using h.lyIsLine
  statMode := by
    rw [State.memWrite_mode]
    by_cases hstat : r = .io ∧ k = 0x41
    · obtain ⟨rfl, rfl⟩ := hstat
      obtain ⟨w, rfl⟩ := hs.stat rfl rfl
      have hst : (s.memWrite .io 0x41 (statBusWrite s.stat w)).stat = statBusWrite s.stat w := ioByte_setIo_same s _ _
      rw [hst, statBusWrite_mode, h.statMode]
    · have hst : (s.memWrite r k v).stat = s.stat := ioByte_memWrite_ne s hstat
      rw [hst, h.statMode]
  dmgBank := by simpa using h.dmgBank
  schemeExists := by simpa using h.schemeExists
  cgbUnused := by
    rw [State.memWrite_cfg]
    intro hv
    have keep : ∀ {j}, j = 0x4F ∨ j = 0x69 ∨ j = 0x6B → (s.memWrite r k v).ioByte j = s.ioByte j := fun {j} hj =>
      ioByte_memWrite_ne s fun ⟨hr, hk⟩ => by have := hs.cgb hr hv; omega
    rw [keep (.inl rfl), keep (.inr (.inl rfl)), keep (.inr (.inr rfl))]
    exact h.cgbUnused hv

/-- An index register of a color palette is one of the bytes of `IO` without a function for the invariant. -/
theorem storable_palette_index {s : State} {k : Nat} {v : Byte} (hk : k = 0x68 ∨ k = 0x6A) : Storable s .io k v :=
  storable_io (by omega) (by omega) (by omega) (fun _ => by omega)

/-- A byte of a color palette, which only `CGB` reaches. -/
theorem storable_palette_ram {s : State} {ram : Region} {v : Byte} (hv : s.cfg.variant = .cgb)
    (hram : ram = .bgpram ∨ ram = .obpram) (p : Byte) : Storable s ram (palIndex p) v := by
  have hp := palIndex_lt p
  rcases hram with rfl | rfl <;> exact ⟨hp, by simp, by simp, by simp, by simp, by simp [hv]⟩

theorem State.Inv.setRow {s : State} (h : s.Inv) {y : Nat} {row : List Rgba} (hy : y < 144) (hrow : row.length = 160) :
    (s.setRow y row).Inv where
  cfgValid := by simpa using h.cfgValid
  memories := setRow_keeps_wf h.memories hy hrow
  modeDerived := by simpa using h.modeDerived
  lyIsLine := by simpa [State.ly] using h.lyIsLine
  statMode := by simpa [State.stat] using h.statMode
  dmgBank := by simpa using h.dmgBank
  schemeExists := by simpa using h.schemeExists
  cgbUnused := by simpa using h.cgbUnused

/-- UPDATE derives `MODE` from the position, LY from `LINE` and bits 1:0 of STAT from `MODE` anew (40_mode_fsm.md rules R131, R136,
R138), and keeps the rest. -/
theorem State.Inv.updated {s : State} (h : s.Inv) (n : Nat) : (updated s n).Inv := by
  obtain ⟨hcfg, hdot, hline, hmode, hbank, hsel, -, -⟩ := updated_registers s n
  have keep : ∀ {j}, j ≠ 0x41 → j ≠ 0x44 → (Machine.updated s n).ioByte j = s.ioByte j := fun h1 h2 =>
    updated_memRead s (by simp [h1, h2])
  constructor
  case cfgValid => rw [hcfg]; exact h.cfgValid
  case memories => exact updated_keeps_wf h.memories n
  case modeDerived => rw [hmode, hcfg, hline, hdot]
  case lyIsLine => rw [updated_ly, hline]
  case statMode => rw [updated_stat, hmode, statSetMode_mode]
  case dmgBank => rw [hcfg, hbank]; exact h.dmgBank
  case schemeExists => rw [hcfg, hsel]; exact h.schemeExists
  case cgbUnused =>
    rw [hcfg, keep (by decide) (by decide), keep (by decide) (by decide), keep (by decide) (by decide)]
    exact h.cgbUnused

/-- Every effect of a transaction keeps the invariant. -/
theorem Effect.keeps_inv {s t : State} {i : Instr} (he : Effect s i t) (h : s.Inv) : t.Inv := by
  cases he with
  | answer resp => exact h.setResponse resp
  | violate a _ => exact (h.setFault _).setResponse _
  | store r k v hs => exact (h.store hs).setResponse _
  | bank b v _ hv => exact (h.setVramBank hv b).setResponse _
  | scheme c _ hc => exact (h.setSyspalSel hc).setResponse _
  | paletteRead k resp _ hk => exact (h.store (storable_palette_index hk)).setResponse _
  | paletteWrite ram k v hv hram hk =>
    exact ((h.store (storable_palette_ram hv hram _)).store (storable_palette_index hk)).setResponse _
  | update n resp _ => exact (h.updated n).setResponse _
  | row _ hy => exact ((h.setRow hy (length_composedRow s _)).setWinLine _).setResponse _

/-- Settles O12: taking a word keeps the invariant, and so does each effect of a transaction. -/
theorem stepKeepsInv : Obligations.StepKeepsInv := by
  intro s t h hstep
  rcases step_effect hstep with rfl | ⟨rest, i, -, he⟩
  · exact h
  · exact he.keeps_inv (h.setPending rest)

/-! ## Who owns which element (rules R34, R41 to R44) -/

/-- A VRAM access is the contract violation, or goes to its bank. -/
theorem withVram_next {s t : State} {a : Addr} {bov : BankOverride} {access : Bank → Result}
    (h : withVram a bov s access = .next t) :
    (s.cfg.variant = .dmg ∧ t = (s.setFault (some (.dmgNonZeroBank a))).setResponse .none) ∨
      access (effBank s bov) = .next t := by
  rcases withVram_cases s a bov access with ⟨hv, -, he⟩ | ⟨-, he⟩
  · rw [he] at h
    cases h
    exact .inl ⟨hv, rfl⟩
  · exact .inr (he ▸ h)

/-- One transaction of any instruction, whether a word spells it or not: an effect, or, with an address outside the mnemonic's
region (log 9), the store of some byte outside the frame buffer. -/
theorem exec_effect_or_store {i : Instr} {s t : State} (h : exec i s = .next t) :
    Effect s i t ∨ ∃ r k v, r ≠ .fb ∧ t = (s.memWrite r k v).setResponse .none := by
  by_cases hw : i.wf = true
  · exact .inl (exec_effect hw h)
  · cases i with
    | rdTile a bov | rdMap a bov =>
      simp only [exec_rdTile, exec_rdMap] at h
      rcases withVram_next h with ⟨hv, rfl⟩ | h
      · exact .inl (.violate a hv)
      · cases h
        exact .inl (.answer _)
    | wrTile a v | wrMap a v =>
      simp only [exec_wrTile, exec_wrMap] at h
      rcases withVram_next h with ⟨hv, rfl⟩ | h
      · exact .inl (.violate a hv)
      · cases h
        exact .inr ⟨_, _, _, by simp, rfl⟩
    | rdOam a bov | rdIo a bov | rdUnmapped a bov | wrUnmapped a v => cases h; exact .inl (.answer _)
    | wrOam a v | wrIo a v => cases h; exact .inr ⟨_, _, _, by simp, rfl⟩
    | update n => cases h; exact .inl (.update n _ rfl)
    | selectSyspal c =>
      simp only [exec, execSelectSyspal] at h
      split at h
      · cases h
      · cases h
        exact .inl (.scheme c rfl (by omega))
    | _ => exact absurd rfl hw

theorem Effect.position_eq {s t : State} {i : Instr} (h : Effect s i t) (hi : ∀ n, i ≠ .update n) :
    t.dot = s.dot ∧ t.line = s.line ∧ t.mode = s.mode := by
  cases h with
  | update n resp e => exact absurd e (hi n)
  | _ => simp

theorem Effect.frame_eq {s t : State} {i : Instr} (h : Effect s i t) (hi : i ≠ .renderScanline) (j : Nat) :
    t.memRead .fb j = s.memRead .fb j := by
  cases h with
  | row e _ => exact absurd e hi
  | store r k v hs => rw [State.setResponse_memRead, memRead_memWrite_ne s fun ⟨hr, _⟩ => hs.notFrame hr.symm]
  | paletteRead k resp _ _ => rw [State.setResponse_memRead, memRead_setIo_ne s (by simp)]
  | paletteWrite ram k v _ hram _ =>
    rw [State.setResponse_memRead, memRead_setIo_ne _ (by simp), memRead_memWrite_ne s (by rcases hram with rfl | rfl <;> simp)]
  | update n resp _ => rw [State.setResponse_memRead, updated_memRead s (by simp)]
  | _ => simp

theorem Effect.syspalSel_eq {s t : State} {i : Instr} (h : Effect s i t) (hi : ∀ c, i ≠ .selectSyspal c) :
    t.syspalSel = s.syspalSel := by
  cases h with
  | scheme c e _ => exact absurd e (hi c)
  | update n resp _ =>
    obtain ⟨-, -, -, -, -, hsel, -, -⟩ := updated_registers s n
    exact hsel
  | _ => simp

theorem Effect.vramBank_eq {s t : State} {i : Instr} (h : Effect s i t) (hi : ∀ v, i ≠ .wrVbk v) : t.vramBank = s.vramBank := by
  cases h with
  | bank b v e _ => exact absurd e (hi v)
  | update n resp _ =>
    obtain ⟨-, -, -, -, hbank, -, -, -⟩ := updated_registers s n
    exact hbank
  | _ => simp

/-- Settles O15: an effect changes an element only in the instruction that owns it, and a store outside the frame buffer changes
none of them. -/
theorem ownersOfState : Obligations.OwnersOfState := by
  intro i s t h
  rcases exec_effect_or_store h with he | ⟨r, k, v, hr, rfl⟩
  · exact ⟨he.position_eq, he.frame_eq, he.syspalSel_eq, he.vramBank_eq⟩
  · refine ⟨fun _ => by simp, fun _ j => ?_, fun _ => by simp, fun _ => by simp⟩
    rw [State.setResponse_memRead, memRead_memWrite_ne s fun ⟨e, _⟩ => hr e.symm]

/-! ## Who writes `WIN_LINE` (rule R46) -/

theorem not_windowSkipped_iff {s : State} {y : Nat} : ¬WindowSkipped s y ↔ windowDrawn s y = true := by
  rw [windowDrawn_iff]
  simp [State.winEn, State.wy, State.wx0]

theorem winY_eq_internalLine (s : State) (y : Nat) : winY s y = InternalLine s y := by
  unfold winY InternalLine
  cases s.winLine <;> rfl

theorem nextWinLine_of_not_skipped {s : State} {y : Nat} (h : ¬WindowSkipped s y) :
    nextWinLine s y = some (InternalLine s y) := by
  rw [nextWinLine, if_pos (not_windowSkipped_iff.1 h), winY_eq_internalLine]

theorem nextWinLine_of_skipped {s : State} {y : Nat} (h : WindowSkipped s y) : nextWinLine s y = s.winLine := by
  rw [nextWinLine, if_neg fun hd => not_windowSkipped_iff.2 hd h]

/-- RENDER_SCANLINE leaves `nextWinLine` on a visible line. -/
theorem renderScanline_winLine_visible {s t : State} (h : exec .renderScanline s = .next t) (hy : s.ly.toNat < 144) :
    t.winLine = nextWinLine s s.ly.toNat := by
  cases (execRenderScanline_visible hy).symm.trans h
  rfl

theorem renderScanline_winLine_blanked {s t : State} (h : exec .renderScanline s = .next t) (hy : 144 ≤ s.ly.toNat) :
    t.winLine = s.winLine := by
  cases (execRenderScanline_blanked hy).symm.trans h
  rfl

/-- UPDATE clears `WIN_LINE` when it changes LY to 0. -/
theorem update_winLine {n : Nat} {s t : State} (h : exec (.update n) s = .next t) :
    t.winLine = if t.ly = 0 ∧ s.ly ≠ 0 then none else s.winLine := by
  cases (execUpdate_eq s n).symm.trans h
  have hly : ∀ x, ((updated s n).setResponse x).ly = lineByte (nextLine s n) := fun _ => updated_ly s n
  rw [State.setResponse_winLine, updated_winLine, hly]
  by_cases hsame : lineByte (nextLine s n) = s.ly
  · simp [hsame]
  · have hcond : lineByte (nextLine s n) = 0 ↔ lineByte (nextLine s n) = 0 ∧ s.ly ≠ 0 :=
      ⟨fun h0 => ⟨h0, fun hs => hsame (h0.trans hs.symm)⟩, And.left⟩
    rw [if_neg hsame]
    exact if_congr hcond rfl rfl

theorem Effect.winLine_eq {s t : State} {i : Instr} (h : Effect s i t) (hr : i ≠ .renderScanline) (hu : ∀ n, i ≠ .update n) :
    t.winLine = s.winLine := by
  cases h with
  | update n resp e => exact absurd e (hu n)
  | row e _ => exact absurd e hr
  | _ => simp

/-- Settles O16: a clause for RENDER_SCANLINE on a visible line with the window drawn, one for it otherwise, one for UPDATE, and one
for every other instruction. -/
theorem whoWritesWinLine : Obligations.WhoWritesWinLine := by
  intro i s t h
  refine ⟨?drawn, ?notDrawn, ?update, ?other⟩
  case drawn =>
    rintro rfl hy hw
    exact (renderScanline_winLine_visible h hy).trans (nextWinLine_of_not_skipped hw)
  case notDrawn =>
    rintro rfl hskip
    by_cases hy : (s.ioByte 0x44).toNat < 144
    · exact (renderScanline_winLine_visible h hy).trans (nextWinLine_of_skipped (hskip.resolve_left (by omega)))
    · exact renderScanline_winLine_blanked h (Nat.le_of_not_lt hy)
  case update =>
    rintro n rfl
    exact update_winLine h
  case other =>
    intro hr hu
    rcases exec_effect_or_store h with he | ⟨r, k, v, -, rfl⟩
    · exact he.winLine_eq hr hu
    · simp

/-! ## What a rendered row depends on (42_background.md rule R242, 43_sprites.md rule R268) -/

section RenderInputs

variable {s t : State}

theorem SameRenderInputs.cfg_eq (h : SameRenderInputs s t) : t.cfg = s.cfg := h.1

theorem SameRenderInputs.winLine_eq (h : SameRenderInputs s t) : t.winLine = s.winLine := h.2.1

theorem SameRenderInputs.ioByte_eq (h : SameRenderInputs s t) {k : Nat} (hk : k ∈ [0x40, 0x42, 0x43, 0x44, 0x4A, 0x4B]) :
    t.ioByte k = s.ioByte k := h.2.2.1 k hk

theorem SameRenderInputs.memRead_eq (h : SameRenderInputs s t) {r : Region}
    (hr : r ∈ [Region.tile .bank0, Region.map .bank0, Region.oam]) (j : Nat) : t.memRead r j = s.memRead r j := h.2.2.2.1 r hr j

theorem SameRenderInputs.syspalSel_eq (h : SameRenderInputs s t) (hv : s.cfg.variant = .dmg) : t.syspalSel = s.syspalSel :=
  (h.2.2.2.2.1 hv).1

theorem SameRenderInputs.palette_eq (h : SameRenderInputs s t) (hv : s.cfg.variant = .dmg) {k : Nat}
    (hk : k ∈ [0x47, 0x48, 0x49]) : t.ioByte k = s.ioByte k := (h.2.2.2.2.1 hv).2 k hk

theorem SameRenderInputs.colorMemory_eq (h : SameRenderInputs s t) (hv : s.cfg.variant = .cgb) {r : Region}
    (hr : r ∈ [Region.tile .bank1, Region.map .bank1, Region.bgpram, Region.obpram]) (j : Nat) :
    t.memRead r j = s.memRead r j := h.2.2.2.2.2 hv r hr j

/-- The fields of LCDC. -/
theorem SameRenderInputs.lcdc_eq (h : SameRenderInputs s t) :
    t.winMap = s.winMap ∧ t.winEn = s.winEn ∧ t.tileSel = s.tileSel ∧ t.bgMap = s.bgMap ∧ t.objSize = s.objSize ∧
      t.objEn = s.objEn ∧ t.bgEn = s.bgEn := by
  simp [State.winMap, State.winEn, State.tileSel, State.bgMap, State.objSize, State.objEn, State.bgEn, h.ioByte_eq (k := 0x40)]

/-- The scroll registers and the window's position. -/
theorem SameRenderInputs.scroll_eq (h : SameRenderInputs s t) :
    t.scx = s.scx ∧ t.scy = s.scy ∧ t.wy = s.wy ∧ t.wx0 = s.wx0 := by
  simp [State.scx, State.scy, State.wy, State.wx0, h.ioByte_eq]

/-- A tile pixel, through bank 1 on `CGB` only. -/
theorem SameRenderInputs.tilePixel_eq (h : SameRenderInputs s t) {b : Bank} (hb : b = .bank0 ∨ s.cfg.variant = .cgb)
    (n r c : Nat) : tilePixel t b n r c = tilePixel s b n r c := by
  have hread : ∀ j, t.memRead (.tile b) j = s.memRead (.tile b) j := by
    intro j
    cases b with
    | bank0 => exact h.memRead_eq (by simp) j
    | bank1 => exact h.colorMemory_eq (hb.resolve_left (by simp)) (by simp) j
  simp only [tilePixel, hread]

theorem SameRenderInputs.dmgColor_eq (h : SameRenderInputs s t) (hv : s.cfg.variant = .dmg) (p : Byte) (ci : BitVec 2) :
    dmgColor t p ci = dmgColor s p ci := by
  simp only [dmgColor, State.scheme, h.cfg_eq, h.syspalSel_eq hv]

theorem SameRenderInputs.cgbColor_eq (h : SameRenderInputs s t) (hv : s.cfg.variant = .cgb) {ram : Region}
    (hram : ram ∈ [Region.bgpram, Region.obpram]) (p : Nat) (ci : BitVec 2) : cgbColor t ram p ci = cgbColor s ram p ci := by
  have hread := h.colorMemory_eq hv (r := ram) (by simp at hram ⊢; tauto)
  simp only [cgbColor, paletteEntry, hread, h.cfg_eq]

theorem SameRenderInputs.layerPixel_eq (h : SameRenderInputs s t) (m : Bool) (px py : Nat) :
    layerPixel t m px py = layerPixel s m px py := by
  have hmap := h.memRead_eq (r := .map .bank0) (by simp)
  have htile : ∀ idx, bgTile t idx = bgTile s idx := fun idx => by simp only [bgTile, h.lcdc_eq]
  cases hv : s.cfg.variant with
  | dmg =>
    simp only [layerPixel, h.cfg_eq, hv, hmap, htile, h.tilePixel_eq (.inl rfl), h.dmgColor_eq hv,
      h.palette_eq hv (k := 0x47) (by simp)]
  | cgb =>
    simp only [layerPixel, h.cfg_eq, hv, hmap, htile, h.colorMemory_eq hv (r := .map .bank1) (by simp),
      h.tilePixel_eq (.inr hv), h.cgbColor_eq hv (ram := .bgpram) (by simp)]

theorem SameRenderInputs.windowDrawn_eq (h : SameRenderInputs s t) (y : Nat) : windowDrawn t y = windowDrawn s y := by
  simp only [windowDrawn, h.lcdc_eq, h.scroll_eq]

theorem SameRenderInputs.winY_eq (h : SameRenderInputs s t) (y : Nat) : winY t y = winY s y := by
  simp only [winY, h.winLine_eq, h.scroll_eq]

theorem SameRenderInputs.nextWinLine_eq (h : SameRenderInputs s t) (y : Nat) : nextWinLine t y = nextWinLine s y := by
  simp only [nextWinLine, h.windowDrawn_eq, h.winY_eq, h.winLine_eq]

/-- The line buffers after the background and window layers. -/
theorem SameRenderInputs.underPixel_eq (h : SameRenderInputs s t) (y x : Nat) : underPixel t y x = underPixel s y x := by
  have hbg : bgDrawn t = bgDrawn s := by simp only [bgDrawn, h.cfg_eq, h.lcdc_eq]
  simp only [underPixel, winPixel, bgPixel, hbg, h.windowDrawn_eq, h.winY_eq, h.layerPixel_eq, h.lcdc_eq, h.scroll_eq]

theorem SameRenderInputs.spriteHeight_eq (h : SameRenderInputs s t) : spriteHeight t = spriteHeight s := by
  simp only [spriteHeight, h.lcdc_eq]

/-- The sprites the layer draws. -/
theorem SameRenderInputs.layerSprites_eq (h : SameRenderInputs s t) (y : Nat) : layerSprites t y = layerSprites s y := by
  have hsprite : t.sprite = s.sprite := by
    funext k
    simp only [State.sprite, h.memRead_eq (r := .oam) (by simp)]
  have hqualifies : qualifies t y = qualifies s y := by
    funext sp
    simp only [qualifies, h.spriteHeight_eq]
  simp only [layerSprites, drawnSprites, qualifying, allSprites, hsprite, hqualifies, h.cfg_eq, h.lcdc_eq]

theorem SameRenderInputs.spriteCi_eq (h : SameRenderInputs s t) (y : Nat) (sp : Sprite) (x : Nat) :
    spriteCi t y sp x = spriteCi s y sp x := by
  have hsame : spriteBank t sp = spriteBank s sp := by simp only [spriteBank, h.cfg_eq]
  have hbank : spriteBank s sp = .bank0 ∨ s.cfg.variant = .cgb := by
    cases hv : s.cfg.variant <;> simp [spriteBank, hv]
  have hrow : spriteRow t y sp = spriteRow s y sp := by simp only [spriteRow, h.spriteHeight_eq]
  have htile : spriteTile t y sp = spriteTile s y sp := by simp only [spriteTile, hrow, h.lcdc_eq]
  simp only [spriteCi, hsame, hrow, htile, h.tilePixel_eq hbank]

theorem SameRenderInputs.spriteColor_eq (h : SameRenderInputs s t) (sp : Sprite) (ci : BitVec 2) :
    spriteColor t sp ci = spriteColor s sp ci := by
  cases hv : s.cfg.variant with
  | dmg =>
    simp only [spriteColor, h.cfg_eq, hv, h.dmgColor_eq hv, h.palette_eq hv (k := 0x48) (by simp),
      h.palette_eq hv (k := 0x49) (by simp)]
  | cgb => simp only [spriteColor, h.cfg_eq, hv, h.cgbColor_eq hv (ram := .obpram) (by simp)]

theorem SameRenderInputs.composedPixel_eq (h : SameRenderInputs s t) (y : Nat) (drawn : List Sprite) (x : Nat) :
    composedPixel t y drawn x = composedPixel s y drawn x := by
  simp only [composedPixel, shownSprite, covers, passes, h.underPixel_eq, h.spriteCi_eq, h.spriteColor_eq, h.cfg_eq, h.lcdc_eq]

/-- Two states with the same render inputs compose the same row. -/
theorem SameRenderInputs.composedRow_eq (h : SameRenderInputs s t) (y : Nat) : composedRow t y = composedRow s y := by
  have hpixel : composedPixel t y (layerSprites s y) = composedPixel s y (layerSprites s y) :=
    funext (h.composedPixel_eq y _)
  simp only [composedRow, h.layerSprites_eq, hpixel]

end RenderInputs

/-! ## The memories that `DMG` does not reach (rules R34, R37, R38, R40) -/

/-- The memories that only `CGB` reaches. -/
def colorRegions : List Region := [.tile .bank1, .map .bank1, .bgpram, .obpram]

/-- On `DMG` an effect writes none of them. -/
theorem Effect.colorMemory_eq {s t : State} {i : Instr} (h : Effect s i t) (hv : s.cfg.variant = .dmg) {r : Region}
    (hr : r ∈ colorRegions) (j : Nat) : t.memRead r j = s.memRead r j := by
  have hio : r ≠ .io := by rintro rfl; simp [colorRegions] at hr
  have hfb : r ≠ .fb := by rintro rfl; simp [colorRegions] at hr
  cases h with
  | store r' k v hs =>
    have hne : r ≠ r' := by
      rintro rfl
      have := hs.dmg hv
      simp [colorRegions] at hr
      tauto
    rw [State.setResponse_memRead, memRead_memWrite_ne s fun ⟨e, _⟩ => hne e]
  | paletteRead k resp hc _ => simp [hv] at hc
  | paletteWrite ram k v hc _ _ => simp [hv] at hc
  | update n resp _ => rw [State.setResponse_memRead, updated_memRead s fun ⟨e, _⟩ => hio e]
  | row _ _ => rw [State.setResponse_memRead, State.setWinLine_memRead, memRead_setRow_outside s fun ⟨e, _⟩ => hfb e]
  | _ => simp

/-- On `DMG` an effect selects no other bank. -/
theorem Effect.vramBank_eq_of_dmg {s t : State} {i : Instr} (h : Effect s i t) (hv : s.cfg.variant = .dmg) :
    t.vramBank = s.vramBank := by
  cases h with
  | bank b v _ hc => simp [hv] at hc
  | update n resp _ =>
    obtain ⟨-, -, -, -, hbank, -, -, -⟩ := updated_registers s n
    exact hbank
  | _ => simp

section WithColorMemory

variable (s : State) (tile1 map1 bgpram obpram : Memory)

@[simp] theorem State.withColorMemory_cfg : (s.withColorMemory tile1 map1 bgpram obpram).cfg = s.cfg := rfl
@[simp] theorem State.withColorMemory_line : (s.withColorMemory tile1 map1 bgpram obpram).line = s.line := rfl
@[simp] theorem State.withColorMemory_fault : (s.withColorMemory tile1 map1 bgpram obpram).fault = s.fault := rfl
@[simp] theorem State.withColorMemory_pending : (s.withColorMemory tile1 map1 bgpram obpram).pending = s.pending := rfl
@[simp] theorem State.withColorMemory_ly : (s.withColorMemory tile1 map1 bgpram obpram).ly = s.ly := rfl
@[simp] theorem effBank_withColorMemory (bov : BankOverride) :
    effBank (s.withColorMemory tile1 map1 bgpram obpram) bov = effBank s bov := rfl

/-- A result with other contents of these memories in its next state; a refusal stays as it is. -/
def recolored : Result → Result
  | .next s => .next (s.withColorMemory tile1 map1 bgpram obpram)
  | .fault r => .fault r
  | .refused r => .refused r

/-- On `DMG` they are no render inputs. -/
theorem sameRenderInputs_withColorMemory (hv : s.cfg.variant = .dmg) :
    SameRenderInputs s (s.withColorMemory tile1 map1 bgpram obpram) := by
  refine ⟨rfl, rfl, fun _ _ => rfl, fun r hr j => ?_, fun _ => ⟨rfl, fun _ _ => rfl⟩, fun hc => by simp [hv] at hc⟩
  simp only [List.mem_cons, List.not_mem_nil, or_false] at hr
  rcases hr with rfl | rfl | rfl <;> rfl

/-- A VRAM access that `DMG` allows is one of bank 0, so it is the same with other contents of bank 1. -/
theorem withVram_withColorMemory {a : Addr} {bov : BankOverride} {access access' : Bank → Result} (hv : s.cfg.variant = .dmg)
    (h0 : access' .bank0 = recolored tile1 map1 bgpram obpram (access .bank0)) :
    withVram a bov (s.withColorMemory tile1 map1 bgpram obpram) access' =
      recolored tile1 map1 bgpram obpram (withVram a bov s access) := by
  cases hb : effBank s bov with
  | bank0 => rw [withVram_allowed (by simp [hb]), withVram_allowed (by simp [hb]), effBank_withColorMemory, hb, h0]
  | bank1 =>
    rw [withVram_violation hv hb, withVram_violation (s := s.withColorMemory tile1 map1 bgpram obpram) hv hb]
    rfl

theorem scanlineUpdate_withColorMemory :
    scanlineUpdate (s.withColorMemory tile1 map1 bgpram obpram) =
      (scanlineUpdate s).withColorMemory tile1 map1 bgpram obpram := by
  simp only [scanlineUpdate, State.withColorMemory_line, State.withColorMemory_ly]
  by_cases hl : lineByte s.line = s.ly
  · simp only [hl, if_true]
  · simp only [hl, if_false]
    rfl

theorem execUpdate_withColorMemory (n : Nat) :
    execUpdate n (s.withColorMemory tile1 map1 bgpram obpram) = recolored tile1 map1 bgpram obpram (execUpdate n s) := by
  have hscan : scanlineUpdate (fsmAdvance (s.withColorMemory tile1 map1 bgpram obpram) n) =
      (scanlineUpdate (fsmAdvance s n)).withColorMemory tile1 map1 bgpram obpram :=
    scanlineUpdate_withColorMemory (fsmAdvance s n) tile1 map1 bgpram obpram
  rw [execUpdate_eq, execUpdate_eq, updated, hscan]
  rfl

theorem execRenderScanline_withColorMemory (hv : s.cfg.variant = .dmg) :
    execRenderScanline (s.withColorMemory tile1 map1 bgpram obpram) =
      recolored tile1 map1 bgpram obpram (execRenderScanline s) := by
  have hsame := sameRenderInputs_withColorMemory s tile1 map1 bgpram obpram hv
  by_cases hy : s.ly.toNat < 144
  · rw [execRenderScanline_visible hy, execRenderScanline_visible (by simpa using hy), State.withColorMemory_ly,
      hsame.composedRow_eq, hsame.nextWinLine_eq]
    rfl
  · have hy : 144 ≤ s.ly.toNat := Nat.le_of_not_lt hy
    rw [execRenderScanline_blanked hy, execRenderScanline_blanked (by simpa using hy)]
    rfl

theorem execSelectSyspal_withColorMemory (c : Nat) :
    execSelectSyspal c (s.withColorMemory tile1 map1 bgpram obpram) =
      recolored tile1 map1 bgpram obpram (execSelectSyspal c s) := by
  simp only [execSelectSyspal, State.withColorMemory_cfg]
  by_cases hc : s.cfg.syspal.length ≤ c
  · simp only [hc, if_true]
    rfl
  · simp only [hc, if_false]
    rfl

/-- On `DMG` no transaction depends on them. -/
theorem exec_withColorMemory (i : Instr) (hv : s.cfg.variant = .dmg) :
    exec i (s.withColorMemory tile1 map1 bgpram obpram) = recolored tile1 map1 bgpram obpram (exec i s) := by
  cases i with
  | rdTile a bov | wrTile a v | rdMap a bov | wrMap a v =>
    simp only [exec_rdTile, exec_wrTile, exec_rdMap, exec_wrMap]
    exact withVram_withColorMemory s tile1 map1 bgpram obpram hv rfl
  | rdVbk bov | wrVbk v | rdBgpd bov | wrBgpd v | rdObpd bov | wrObpd v =>
    simp only [exec, execRdVbk, execWrVbk, execRdBgpd, execWrBgpd, execRdObpd, execWrObpd, State.withColorMemory_cfg, hv]
    rfl
  | update n => exact execUpdate_withColorMemory s tile1 map1 bgpram obpram n
  | renderScanline => exact execRenderScanline_withColorMemory s tile1 map1 bgpram obpram hv
  | selectSyspal c => exact execSelectSyspal_withColorMemory s tile1 map1 bgpram obpram c
  | _ => rfl -- a read or write of `IO` or `OAM`, or an answer from a register or `FB`

/-- On `DMG` no step depends on them: the fault and the words presented are outside them. -/
theorem step_withColorMemory (hv : s.cfg.variant = .dmg) :
    step (s.withColorMemory tile1 map1 bgpram obpram) = recolored tile1 map1 bgpram obpram (step s) := by
  cases hf : s.fault with
  | some f => simp [step, fetch, hf, recolored]
  | none =>
    cases hp : s.pending with
    | nil => simp [step, fetch, hf, hp, recolored]
    | cons w rest =>
      cases hd : decode w with
      | error e => simp [step, fetch, hf, hp, hd, recolored]
      | ok i =>
        simp only [step, fetch, State.withColorMemory_fault, State.withColorMemory_pending, hf, hp, hd]
        exact exec_withColorMemory (s.setPending rest) tile1 map1 bgpram obpram i hv

end WithColorMemory

/-- Settles O14: no effect on `DMG` writes these memories or selects a bank, and a step commutes with exchanging their contents. -/
theorem dmgCannotReachColorMemory : Obligations.DmgCannotReachColorMemory := by
  refine ⟨fun s t hv hb h => ?_, fun s tile1 map1 bgpram obpram hv _ => ⟨fun t h => ?_, fun e h => ?_⟩⟩
  · rcases step_effect h with rfl | ⟨rest, i, -, he⟩
    · exact ⟨hb, fun _ _ _ => rfl⟩
    · refine ⟨(he.vramBank_eq_of_dmg hv).trans hb, fun r hr j => ?_⟩
      rw [he.colorMemory_eq hv hr, State.setPending_memRead]
  · rw [step_withColorMemory s tile1 map1 bgpram obpram hv, h]
    rfl
  · rw [step_withColorMemory s tile1 map1 bgpram obpram hv, h]
    rfl

end Sys2Proof.Machine
end

