-- ==== Sys2Proof/Proofs/Memory.lean ====
section
/-!
PROOF. The statements of 20_memory.md: unmapped space (rule R61), the side effects of a READ (rule R72), a READ after a WRITE
(rule R74) and that the display mode locks no access (rule R75). First what the bus words decode into and what the accesses that
depend on the profile do; the statements cite these.
-/

namespace Sys2Proof

/-- The word of a READ decodes into the READ mnemonic of its address. -/
theorem decode_encodeRead (a : Addr) (bov : BankOverride) : decode (encodeRead a bov) = .ok (readMnemonic a bov) := by
  rw [decode, decodeFields_encodeRead]
  rfl

/-- The word of a WRITE decodes into the WRITE mnemonic of its address. -/
theorem decode_encodeWrite (a : Addr) (v : Byte) : decode (encodeWrite a v) = .ok (writeMnemonic a v) := by
  rw [decode, decodeFields_encodeWrite]
  rfl

end Sys2Proof

namespace Sys2Proof.Machine

/-! ## The registers whose meaning depends on the profile (41_bus_access.md rules R188, R189, R192, R193, R196, R197) -/

section Profile

variable {s : State}

theorem exec_rdVbk_cgb (hv : s.cfg.variant = .cgb) (bov : BankOverride) :
    exec (.rdVbk bov) s = s.answer (.byte (s.cfg.vbkReadHigh ||| (bankBit s.vramBank).setWidth 8)) := by
  simp only [exec, execRdVbk, hv]

theorem exec_rdVbk_dmg (hv : s.cfg.variant = .dmg) (bov : BankOverride) : exec (.rdVbk bov) s = readByte .io 0x4F s := by
  simp only [exec, execRdVbk, hv]

theorem exec_wrVbk_cgb (hv : s.cfg.variant = .cgb) (v : Byte) :
    exec (.wrVbk v) s = (s.setVramBank (bankOfBit (v.getLsbD 0))).answer .none := by
  simp only [exec, execWrVbk, hv]

theorem exec_wrVbk_dmg (hv : s.cfg.variant = .dmg) (v : Byte) : exec (.wrVbk v) s = writeByte .io 0x4F v s := by
  simp only [exec, execWrVbk, hv]

theorem exec_rdBgpd_cgb (hv : s.cfg.variant = .cgb) (bov : BankOverride) :
    exec (.rdBgpd bov) s = readPalette .bgpram 0x68 s := by
  simp only [exec, execRdBgpd, hv]

theorem exec_rdBgpd_dmg (hv : s.cfg.variant = .dmg) (bov : BankOverride) : exec (.rdBgpd bov) s = readByte .io 0x69 s := by
  simp only [exec, execRdBgpd, hv]

theorem exec_wrBgpd_cgb (hv : s.cfg.variant = .cgb) (v : Byte) : exec (.wrBgpd v) s = writePalette .bgpram 0x68 v s := by
  simp only [exec, execWrBgpd, hv]

theorem exec_wrBgpd_dmg (hv : s.cfg.variant = .dmg) (v : Byte) : exec (.wrBgpd v) s = writeByte .io 0x69 v s := by
  simp only [exec, execWrBgpd, hv]

theorem exec_rdObpd_cgb (hv : s.cfg.variant = .cgb) (bov : BankOverride) :
    exec (.rdObpd bov) s = readPalette .obpram 0x6A s := by
  simp only [exec, execRdObpd, hv]

theorem exec_rdObpd_dmg (hv : s.cfg.variant = .dmg) (bov : BankOverride) : exec (.rdObpd bov) s = readByte .io 0x6B s := by
  simp only [exec, execRdObpd, hv]

theorem exec_wrObpd_cgb (hv : s.cfg.variant = .cgb) (v : Byte) : exec (.wrObpd v) s = writePalette .obpram 0x6A v s := by
  simp only [exec, execWrObpd, hv]

theorem exec_wrObpd_dmg (hv : s.cfg.variant = .dmg) (v : Byte) : exec (.wrObpd v) s = writeByte .io 0x6B v s := by
  simp only [exec, execWrObpd, hv]

end Profile

/-! ## Unmapped space (rule R61) -/

/-- Settles O26: the address is in no region, so its words are the unmapped mnemonics, which only answer. -/
theorem unmappedReadsAndWrites : Obligations.UnmappedReadsAndWrites := by
  intro s a bov v hvram hoam hio
  have hu : a.isUnmapped = true := by
    rw [isUnmapped_iff, isTile_iff, isMap_iff, isOam_iff, isIo_iff]
    omega
  obtain ⟨hread, hwrite⟩ := mnemonic_of_isUnmapped hu bov v
  exact ⟨hread ▸ decode_encodeRead a bov, hwrite ▸ decode_encodeWrite a v, ⟨_, rfl, answers_setResponse s _⟩,
    ⟨_, rfl, answers_setResponse s _⟩⟩

/-! ## The side effects of a READ (rule R72) -/

/-- The contract violation, for each of the four VRAM mnemonics. -/
theorem exec_of_violates {s : State} {i : Instr} {a : Addr} (h : Violates s i a) :
    exec i s = .next ((s.setFault (some (.dmgNonZeroBank a))).setResponse .none) := by
  obtain ⟨hv, ha⟩ := h
  cases i with
  | rdTile a' bov | rdMap a' bov | wrTile a' v | wrMap a' v =>
    simp only [vramAccess, Option.some.injEq, Prod.mk.injEq] at ha
    obtain ⟨rfl, hb⟩ := ha
    simp only [exec_rdTile, exec_rdMap, exec_wrTile, exec_wrMap]
    exact withVram_violation hv hb
  | _ => cases ha

/-- Any other READ answers a byte and does nothing else, or is a palette data READ on `CGB`. -/
theorem exec_read_of_not_violates {s : State} {i : Instr} (hr : i.isRead = true) (hn : ∀ a, ¬Violates s i a) :
    (∃ v, exec i s = .next (s.setResponse (.byte v))) ∨
      (s.cfg.variant = .cgb ∧ (∃ bov, i = .rdBgpd bov) ∧ exec i s = readPalette .bgpram 0x68 s) ∨
      (s.cfg.variant = .cgb ∧ (∃ bov, i = .rdObpd bov) ∧ exec i s = readPalette .obpram 0x6A s) := by
  cases i with
  | rdTile a bov | rdMap a bov =>
    have hb : ¬(s.cfg.variant = .dmg ∧ effBank s bov = .bank1) := fun ⟨hv, hb⟩ =>
      hn a ⟨hv, congrArg (fun b => some (a, b)) hb⟩
    simp only [exec_rdTile, exec_rdMap]
    exact .inl ⟨_, withVram_allowed hb⟩
  | rdVbk bov =>
    cases hv : s.cfg.variant with
    | dmg => exact .inl ⟨_, exec_rdVbk_dmg hv bov⟩
    | cgb => exact .inl ⟨_, exec_rdVbk_cgb hv bov⟩
  | rdBgpd bov =>
    cases hv : s.cfg.variant with
    | dmg => exact .inl ⟨_, exec_rdBgpd_dmg hv bov⟩
    | cgb => exact .inr (.inl ⟨rfl, ⟨bov, rfl⟩, exec_rdBgpd_cgb hv bov⟩)
  | rdObpd bov =>
    cases hv : s.cfg.variant with
    | dmg => exact .inl ⟨_, exec_rdObpd_dmg hv bov⟩
    | cgb => exact .inr (.inr ⟨rfl, ⟨bov, rfl⟩, exec_rdObpd_cgb hv bov⟩)
  | rdOam _ _ | rdLcdc _ | rdStat _ | rdScy _ | rdScx _ | rdLy _ | rdLyc _ | rdBgp _ | rdObp0 _ | rdObp1 _ | rdWy _ | rdWx _
  | rdBgpi _ | rdObpi _ | rdIo _ _ | rdUnmapped _ _ => exact .inl ⟨_, rfl⟩
  | _ => cases hr -- no READ

/-- Storing the byte that is there changes no byte. -/
theorem memRead_setIo_self (s : State) (k : Nat) (r : Region) (j : Nat) :
    (s.setIo k (s.ioByte k)).memRead r j = s.memRead r j := by
  by_cases h : r = .io ∧ j = k
  · obtain ⟨rfl, rfl⟩ := h
    exact ioByte_setIo_same s j _
  · exact memRead_setIo_ne s h

/-- Without `AUTO_INC` a palette data READ changes nothing. -/
theorem readPalette_same {ram : Region} {k : Nat} {s t : State} (h : readPalette ram k s = .next t)
    (hk : ¬(s.ioByte k).getLsbD 7 = true) : SameRegisters s t ∧ SameBytes s t := by
  have hp : palAdvance (s.ioByte k) = s.ioByte k := if_neg hk
  cases h
  rw [hp]
  exact ⟨by simp [SameRegisters], fun r j => by rw [State.setResponse_memRead, memRead_setIo_self]⟩

/-- With `AUTO_INC` it advances the index modulo 64. -/
theorem readPalette_advances {ram : Region} {k : Nat} {s t : State} (h : readPalette ram k s = .next t)
    (hk : (s.ioByte k).getLsbD 7 = true) : (t.ioByte k).toNat % 64 = ((s.ioByte k).toNat + 1) % 64 := by
  have h128 : 128 ≤ (s.ioByte k).toNat := of_decide_eq_true ((palAutoInc_eq _).symm.trans hk)
  cases h
  rw [State.setResponse_ioByte, ioByte_setIo_same, toNat_palAdvance, if_pos h128]
  omega

/-- Settles O29: a READ without the violation only answers, but for the palette data READs on `CGB`, which also store the advanced
index; the violation's state is its own lemma. -/
theorem readSideEffects : Obligations.ReadSideEffects := by
  intro i s t hr h
  refine ⟨fun hn hbg hob => ?same, ?bgpd, ?obpd, fun a ha => ?violation⟩
  case same =>
    rcases exec_read_of_not_violates hr hn with ⟨v, he⟩ | ⟨hv, hi, he⟩ | ⟨hv, hi, he⟩ <;> rw [he] at h
    · cases h
      exact (answers_setResponse s _).2
    · exact readPalette_same h fun hk => hbg ⟨hv, hi, hk⟩
    · exact readPalette_same h fun hk => hob ⟨hv, hi, hk⟩
  case bgpd =>
    rintro hv ⟨bov, rfl⟩ hk
    exact readPalette_advances ((exec_rdBgpd_cgb hv bov).symm.trans h) hk
  case obpd =>
    rintro hv ⟨bov, rfl⟩ hk
    exact readPalette_advances ((exec_rdObpd_cgb hv bov).symm.trans h) hk
  case violation =>
    cases (exec_of_violates ha).symm.trans h
    rfl

/-! ## A READ after a WRITE (rule R74) -/

/-- A named register of plain storage: its WRITE and its READ are those of its byte of `IO`. -/
theorem exec_namedRow_plain {s : State} {row : NamedRow} (hrow : row ∈ namedRows) (hstat : row.1 ≠ 0xFF41)
    (hly : row.1 ≠ 0xFF44) (hc : s.cfg.variant = .cgb → row.1 ≠ 0xFF4F ∧ row.1 ≠ 0xFF69 ∧ row.1 ≠ 0xFF6B) :
    (∀ v, exec (row.2.2 v) s = writeByte .io (ioOffset row.1) v s) ∧
      ∀ bov, exec (row.2.1 bov) s = readByte .io (ioOffset row.1) s := by
  rcases List.mem_append.1 hrow with hlcd | hcolor
  · simp only [lcdRows, List.mem_cons, List.not_mem_nil, or_false] at hlcd
    rcases hlcd with rfl | rfl | rfl | rfl | rfl | rfl | rfl | rfl | rfl | rfl | rfl
    case inr.inl => exact absurd rfl hstat
    case inr.inr.inr.inr.inl => exact absurd rfl hly
    all_goals exact ⟨fun _ => rfl, fun _ => rfl⟩
  · have hdmg : row.1 = 0xFF4F ∨ row.1 = 0xFF69 ∨ row.1 = 0xFF6B → s.cfg.variant = .dmg := by
      cases hv : s.cfg.variant with
      | dmg => exact fun _ => rfl
      | cgb => have := hc hv; tauto
    simp only [colorRows, List.mem_cons, List.not_mem_nil, or_false] at hcolor
    rcases hcolor with rfl | rfl | rfl | rfl | rfl
    · exact ⟨exec_wrVbk_dmg (hdmg (.inl rfl)), exec_rdVbk_dmg (hdmg (.inl rfl))⟩
    · exact ⟨fun _ => rfl, fun _ => rfl⟩
    · exact ⟨exec_wrBgpd_dmg (hdmg (.inr (.inl rfl))), exec_rdBgpd_dmg (hdmg (.inr (.inl rfl)))⟩
    · exact ⟨fun _ => rfl, fun _ => rfl⟩
    · exact ⟨exec_wrObpd_dmg (hdmg (.inr (.inr rfl))), exec_rdObpd_dmg (hdmg (.inr (.inr rfl)))⟩

/-- The accesses of address `a` are the common ones of byte `k` of region `r`, its READ carrying no override. -/
def AccessesByte (s : State) (a : Addr) (r : Region) (k : Nat) : Prop :=
  (∀ v, exec (writeMnemonic a v) s = writeByte r k v s) ∧ exec (readMnemonic a none) s = readByte r k s

section PlainStorage

variable {s : State} {a : Addr}

theorem accessesByte_tile (ha : a.isTile = true) (hb : ¬(s.cfg.variant = .dmg ∧ s.vramBank = .bank1)) :
    AccessesByte s a (.tile s.vramBank) (tileOffset a) := by
  refine ⟨fun v => ?_, ?_⟩
  · rw [(mnemonic_of_isTile ha none v).2, exec_wrTile]
    exact withVram_allowed hb
  · rw [(mnemonic_of_isTile ha none 0).1, exec_rdTile]
    exact withVram_allowed hb

theorem accessesByte_map (ha : a.isMap = true) (hb : ¬(s.cfg.variant = .dmg ∧ s.vramBank = .bank1)) :
    AccessesByte s a (.map s.vramBank) (mapOffset a) := by
  refine ⟨fun v => ?_, ?_⟩
  · rw [(mnemonic_of_isMap ha none v).2, exec_wrMap]
    exact withVram_allowed hb
  · rw [(mnemonic_of_isMap ha none 0).1, exec_rdMap]
    exact withVram_allowed hb

theorem accessesByte_oam (ha : a.isOam = true) : AccessesByte s a .oam (oamOffset a) := by
  refine ⟨fun v => ?_, ?_⟩
  · rw [(mnemonic_of_isOam ha none v).2]
    rfl
  · rw [(mnemonic_of_isOam ha none 0).1]
    rfl

/-- A byte of `IO`, of a named register or not. -/
theorem accessesByte_io (ha : a.isIo = true) (hstat : a ≠ 0xFF41) (hly : a ≠ 0xFF44)
    (hc : s.cfg.variant = .cgb → a ≠ 0xFF4F ∧ a ≠ 0xFF69 ∧ a ≠ 0xFF6B) : AccessesByte s a .io (ioOffset a) := by
  cases hf : findRow namedRows a with
  | some row =>
    obtain ⟨hrow, rfl⟩ := findRow_some hf
    obtain ⟨hwrite, hread⟩ := exec_namedRow_plain hrow hstat hly hc
    simp only [AccessesByte, readMnemonic, writeMnemonic, hf]
    exact ⟨hwrite, hread none⟩
  | none =>
    have hp := isPlainIo_iff.2 ⟨ha, findRow_namedRows_none hf⟩
    refine ⟨fun v => ?_, ?_⟩
    · rw [(mnemonic_of_isPlainIo hp none v).2]
      rfl
    · rw [(mnemonic_of_isPlainIo hp none 0).1]
      rfl

/-- At plain storage the accesses are those of one byte, the same one in every state with this configuration and bank. -/
theorem accessesByte_of_plainStorage (h : PlainStorage s a) :
    ∃ r k, ∀ t : State, t.cfg = s.cfg → t.vramBank = s.vramBank → AccessesByte t a r k := by
  rcases h with ⟨hlo, hhi, hb⟩ | ⟨hlo, hhi⟩ | ⟨hlo, hhi, hstat, hly, hc⟩
  · by_cases htile : a.toNat ≤ 0x97FF
    · refine ⟨.tile s.vramBank, tileOffset a, fun t hcfg hbank => ?_⟩
      rw [← hcfg, ← hbank] at hb
      exact hbank ▸ accessesByte_tile (isTile_iff.2 ⟨hlo, htile⟩) hb
    · refine ⟨.map s.vramBank, mapOffset a, fun t hcfg hbank => ?_⟩
      rw [← hcfg, ← hbank] at hb
      exact hbank ▸ accessesByte_map (isMap_iff.2 ⟨by omega, hhi⟩) hb
  · exact ⟨.oam, oamOffset a, fun _ _ _ => accessesByte_oam (isOam_iff.2 ⟨hlo, hhi⟩)⟩
  · have ne : ∀ {b : Addr}, a.toNat ≠ b.toNat → a ≠ b := fun h e => h (congrArg BitVec.toNat e)
    refine ⟨.io, ioOffset a, fun t hcfg _ => accessesByte_io (isIo_iff.2 ⟨hlo, hhi⟩) (ne hstat) (ne hly) fun hv => ?_⟩
    obtain ⟨hvbk, hbgpd, hobpd⟩ := hc (hcfg ▸ hv)
    exact ⟨ne hvbk, ne hbgpd, ne hobpd⟩

end PlainStorage

/-- Settles O30: the WRITE stores a byte, keeps the configuration and the bank, and so the READ is of the same byte. -/
theorem readAfterWrite : Obligations.ReadAfterWrite := by
  intro s a v h
  obtain ⟨r, k, haccess⟩ := accessesByte_of_plainStorage h
  obtain ⟨hwrite, -⟩ := haccess s rfl rfl
  obtain ⟨-, hread⟩ := haccess ((s.memWrite r k v).setResponse .none) (by simp) (by simp)
  exact ⟨_, _, hwrite v, hread, by simp⟩

/-! ## No access depends on the mode (rule R75) -/

section Position

variable (d : Fin 456) (l : Fin 154) (m : Mode)

/-- Both results are next states, the second being the first at another position and mode. -/
def MovedAlong (x y : Result) : Prop := ∃ t, x = .next t ∧ y = .next (t.setFsm d l m)

theorem State.memWrite_setFsm (s : State) (r : Region) (k : Nat) (v : Byte) :
    (s.setFsm d l m).memWrite r k v = (s.memWrite r k v).setFsm d l m := by
  rcases r with ⟨_ | _⟩ | ⟨_ | _⟩ | _ | _ | _ | _ | _ <;> rfl

theorem readByte_movedAlong (r : Region) (k : Nat) (s : State) :
    MovedAlong d l m (readByte r k s) (readByte r k (s.setFsm d l m)) :=
  ⟨_, rfl, by rw [readByte_eq, State.setFsm_memRead]; rfl⟩

theorem writeByte_movedAlong (r : Region) (k : Nat) (v : Byte) (s : State) :
    MovedAlong d l m (writeByte r k v s) (writeByte r k v (s.setFsm d l m)) :=
  ⟨_, rfl, by rw [writeByte_eq, State.memWrite_setFsm]; rfl⟩

/-- A VRAM access moves along when the access of its bank does. -/
theorem withVram_movedAlong {s : State} {a : Addr} {bov : BankOverride} {access access' : Bank → Result}
    (h : ∀ b, MovedAlong d l m (access b) (access' b)) :
    MovedAlong d l m (withVram a bov s access) (withVram a bov (s.setFsm d l m) access') := by
  by_cases hb : s.cfg.variant = .dmg ∧ effBank s bov = .bank1
  · obtain ⟨hv, hb⟩ := hb
    exact ⟨_, withVram_violation hv hb, withVram_violation (s := s.setFsm d l m) hv hb⟩
  · rw [withVram_allowed hb, withVram_allowed (s := s.setFsm d l m) hb]
    exact h (effBank s bov)

/-- A READ or WRITE has a next state, and at another position and mode it does the same: no access looks at them. -/
theorem exec_bus_movedAlong {i : Instr} (hi : i.isRead = true ∨ i.isWrite = true) (s : State) :
    MovedAlong d l m (exec i s) (exec i (s.setFsm d l m)) := by
  cases i with
  | rdTile a bov | rdMap a bov => exact withVram_movedAlong d l m fun _ => readByte_movedAlong d l m _ _ s
  | wrTile a v | wrMap a v => exact withVram_movedAlong d l m fun _ => writeByte_movedAlong d l m _ _ v s
  | rdVbk _ | wrVbk _ | rdBgpd _ | wrBgpd _ | rdObpd _ | wrObpd _ =>
    cases hv : s.cfg.variant with
    | dmg =>
      simp only [exec_rdVbk_dmg, exec_wrVbk_dmg, exec_rdBgpd_dmg, exec_wrBgpd_dmg, exec_rdObpd_dmg, exec_wrObpd_dmg,
        State.setFsm_cfg, hv]
      exact ⟨_, rfl, rfl⟩
    | cgb =>
      simp only [exec_rdVbk_cgb, exec_wrVbk_cgb, exec_rdBgpd_cgb, exec_wrBgpd_cgb, exec_rdObpd_cgb, exec_wrObpd_cgb,
        State.setFsm_cfg, hv]
      exact ⟨_, rfl, rfl⟩
  | update _ | renderScanline | renderScreen | getMode | selectSyspal _ => simp [Instr.isRead, Instr.isWrite] at hi
  | _ => exact ⟨_, rfl, rfl⟩ -- one byte of `IO` or `OAM`, or only an answer

end Position

/-- Settles O31: the state after the access in mode `m` is the one after it in the state's own mode, moved to `m`. -/
theorem noAccessLockingByMode : Obligations.NoAccessLockingByMode := by
  intro i s m hi
  obtain ⟨t, ht, hu⟩ := exec_bus_movedAlong s.dot s.line m hi s
  exact ⟨t, _, ht, hu, rfl, fun r j => by rw [State.setFsm_memRead], rfl, rfl⟩

end Sys2Proof.Machine
end

/-!
PROOF. The statements of 30_encoding.md: a word and the instruction it spells determine each other (rules R92 to R95), the
reserved words are the words that do not decode (rule R97), what a step does with the word presented (rules R94, R98), the color
index of a tile pixel (rule R102), and what the expansions of BGCOL and SPRITE leave (rule R101).
-/

namespace Sys2Proof

/-! ## A word is its fields (rules R92, R93) -/

/-- Fields side by side are one field. -/
theorem field_append_field (w : Word) {lo mid m n : Nat} (h : mid = lo + n) :
    field w mid m ++ field w lo n = field w lo (m + n) :=
  BitVec.extractLsb'_append_extractLsb'_eq_extractLsb' h

theorem field_whole (w : Word) : field w 0 32 = w := BitVec.extractLsb'_eq_self

theorem opcode_append {w : Word} {op : BitVec 4} (hop : field w 28 4 = op) : op ++ field w 0 28 = w := by
  rw [← hop, field_append_field w (lo := 0) (n := 28) rfl]
  exact field_whole w

theorem opcode_append_zero {w : Word} {op : BitVec 4} (hop : field w 28 4 = op) (hzero : field w 0 28 = 0#28) :
    op ++ 0#28 = w :=
  hzero ▸ opcode_append hop

/-- The word of the transaction read out of a word is that word: its fields, put side by side, leave out no bit. -/
theorem word_of_decodeFields {w : Word} {t : Transaction} (h : decodeFields w = .ok t) : t.word = w := by
  unfold decodeFields at h
  repeat' split at h
  all_goals cases h
  · rename_i hop _ bov hbov hzero -- READ
    rw [Transaction.word, encodeRead, encodeBov_of_decodeBov hbov, ← hop, ← hzero]
    simp (disch := decide) only [field_append_field]
    exact field_whole w
  · rename_i hop hzero -- WRITE
    rw [Transaction.word, encodeWrite, ← hop, ← hzero]
    simp (disch := decide) only [field_append_field]
    exact field_whole w
  · rename_i hop -- UPDATE
    rw [Transaction.word, BitVec.ofNat_toNat, BitVec.setWidth_eq, opcode_append hop]
  · rename_i hop hzero -- RENDER_SCANLINE
    exact opcode_append_zero hop hzero
  · rename_i hop hzero -- RENDER_SCREEN
    exact opcode_append_zero hop hzero
  · rename_i hop hzero -- GET_MODE
    exact opcode_append_zero hop hzero
  · rename_i hop hzero -- SELECT_SYSPAL
    rw [Transaction.word, BitVec.ofNat_toNat, BitVec.setWidth_eq, ← hop, ← hzero]
    simp (disch := decide) only [field_append_field]
    exact field_whole w

/-- A word spells exactly the transaction whose word it is and whose operands fit. -/
theorem decodeFields_ok_iff {w : Word} {t : Transaction} : decodeFields w = .ok t ↔ t.word = w ∧ t.fits := by
  constructor
  · exact fun h => ⟨word_of_decodeFields h, decodeFields_fits h⟩
  · rintro ⟨rfl, h⟩
    exact decodeFields_word t h

/-! ## Decoding and encoding (rules R94, R95) -/

theorem decode_ok_iff {w : Word} {i : Instr} : decode w = .ok i ↔ ∃ t, decodeFields w = .ok t ∧ t.instr = i := by
  unfold decode
  cases decodeFields w <;> simp [Except.map]

theorem decode_error_iff {w : Word} {e : DecodeError} : decode w = .error e ↔ decodeFields w = .error e := by
  unfold decode
  cases decodeFields w <;> simp [Except.map]

/-- Settles O2: the word's fields give the instruction's transaction back, and the transaction's address its mnemonic. -/
theorem decodeOfEncode : Obligations.DecodeOfEncode := by
  intro i hw
  exact decode_ok_iff.2 ⟨_, decodeFields_ok_iff.2 ⟨rfl, transaction_fits hw⟩, transaction_instr hw⟩

/-- Settles O3: the mnemonic's transaction is the one the fields give, and its word is the word decoded. -/
theorem encodeOfDecode : Obligations.EncodeOfDecode := by
  intro w i h
  obtain ⟨t, ht, rfl⟩ := decode_ok_iff.1 h
  obtain ⟨hword, hfits⟩ := decodeFields_ok_iff.1 ht
  obtain ⟨htransaction, hwf⟩ := instr_spec hfits
  exact ⟨by rw [encode, htransaction, hword], hwf⟩

/-- Settles O1: the decoder is evaluated on each word. -/
theorem specWordsDecode : Obligations.SpecWordsDecode := by
  unfold Obligations.SpecWordsDecode
  decide

/-! ## Reserved words (rule R97) -/

theorem decodeBov_eq_none_iff {b : BitVec 2} : decodeBov b = none ↔ b = 0b01#2 := by
  revert b
  decide

/-- The opcode is a quotient of the word: no bit stands above it. -/
theorem opcode_eq_iff {w : Word} {x : BitVec 4} : field w 28 4 = x ↔ w.toNat / 2 ^ 28 = x.toNat := by
  have hw := w.isLt
  rw [field_eq_iff, Nat.mod_eq_of_lt (by omega)]

theorem error_ite_iff {ε α : Type} {c : Prop} [Decidable c] {x y : Except ε α} :
    (∃ e, (if c then x else y) = .error e) ↔ if c then ∃ e, x = .error e else ∃ e, y = .error e := by
  split <;> rfl

/-- Opcode by opcode, the fields that must be 0 are those of rule R97's list; a READ's `BOV` besides. -/
theorem decodeFields_error_iff (w : Word) : (∃ e, decodeFields w = .error e) ↔ Machine.ReservedWord w := by
  have hw := w.isLt
  have hop : w.toNat / 2 ^ 28 < 16 := by omega
  have hbov : decodeBov (field w 26 2) = none ↔ w.toNat / 0x4000000 % 4 = 1 := decodeBov_eq_none_iff.trans field_eq_iff
  unfold decodeFields Machine.ReservedWord
  simp only [error_ite_iff, opcode_eq_iff]
  generalize w.toNat / 2 ^ 28 = op at *
  interval_cases op
  · simp -- no transaction has opcode 0
  · -- READ
    cases h : decodeBov (field w 26 2) with
    | none => simp [hbov.1 h]
    | some bov => simp [mt hbov.2 (by simp [h]), error_ite_iff, field_eq_iff]
  all_goals simp [field_eq_iff]

end Sys2Proof

namespace Sys2Proof.Machine

/-! ## A step and the word presented (rules R44, R94, R97) -/

section Presented

variable {s : State} {w : Word} {rest : List Word} (hf : s.fault = none)
include hf

theorem step_presented {i : Instr} (hp : s.pending = w :: rest) (hd : decode w = .ok i) :
    step s = exec i (s.setPending rest) := by
  simp only [step, fetch, hf, hp, hd]

theorem step_reserved {e : DecodeError} (hp : s.pending = w :: rest) (hd : decode w = .error e) :
    step s = .refused (.reservedWord e) := by
  simp only [step, fetch, hf, hp, hd]

theorem step_idle (hp : s.pending = []) : step s = .next s := by
  simp only [step, fetch, hf, hp]

end Presented

/-- Settles O5: without a fault `fetch` looks at the words presented, then at what the first decodes into. -/
theorem stepRunsDecoded : Obligations.StepRunsDecoded := by
  exact ⟨fun _ _ _ _ hf => step_presented hf, fun _ => step_idle⟩

/-- Settles O4: the words with a decoding error are the reserved ones, and a step refuses a word with a decoding error. -/
theorem reservedWordsRefused : Obligations.ReservedWordsRefused := by
  have hreserved : ∀ w, (∃ e, decode w = .error e) ↔ ReservedWord w := fun w => by
    simp only [decode_error_iff, decodeFields_error_iff]
  refine ⟨hreserved, fun s w rest hf hp hw => ?_⟩
  obtain ⟨e, hd⟩ := (hreserved w).2 hw
  exact ⟨e, step_reserved hf hp hd⟩

/-! ## Every transaction has a next state (rule R98) -/

/-- Settles O8: a bus transaction has a next state in every mode (`exec_bus_movedAlong`); the commands are equations, one
of them with the refusal. -/
theorem everyTransactionHasNextState : Obligations.EveryTransactionHasNextState := by
  intro i s
  by_cases hbus : i.isRead = true ∨ i.isWrite = true
  · obtain ⟨t, ht, -⟩ := exec_bus_movedAlong s.dot s.line s.mode hbus s
    exact .inl ⟨t, ht⟩
  cases i with
  | update n => exact .inl ⟨_, execUpdate_eq s n⟩
  | renderScanline =>
    rcases Nat.lt_or_ge s.ly.toNat 144 with hy | hy
    · exact .inl ⟨_, execRenderScanline_visible hy⟩
    · exact .inl ⟨_, execRenderScanline_blanked hy⟩
  | renderScreen | getMode => exact .inl ⟨_, rfl⟩
  | selectSyspal c =>
    rcases Nat.lt_or_ge c s.cfg.syspal.length with hc | hc
    · exact .inl ⟨_, if_neg (Nat.not_le_of_lt hc)⟩
    · exact .inr ⟨c, rfl, hc, if_pos hc⟩
  | _ => simp [Instr.isRead, Instr.isWrite] at hbus -- no command

/-! ## Tile pixels (rule R102) -/

/-- Settles O52: the index is the high plane's bit before the low plane's, and a bit of a byte is a quotient modulo 2. -/
theorem tilePixelPlanes : Obligations.TilePixelPlanes := by
  intro s b t r c _
  simp only [tilePixel, toNat_append_add, BitVec.toNat_ofBool, ← BitVec.testBit_toNat, Nat.toNat_testBit]
  omega

/-! ## Running the WRITEs of a pseudo-transaction (rule R101) -/

/-- A run goes on from the next state of its first step. -/
theorem run_succ (M : Host.Core) {s t : M.State} (h : M.step s = .next t) (k : Nat) : M.run (k + 1) s = M.run k t := by
  rw [Host.Core.run, h]

/-- The block has no fault and is presented the words of these transactions, and no others. -/
def Awaits (s : State) (ts : List Transaction) : Prop := s.fault = none ∧ s.pending = ts.map Transaction.word

theorem awaits_setPending {s : State} (hf : s.fault = none) (ts : List Transaction) :
    Awaits (s.setPending (ts.map Transaction.word)) ts := ⟨hf, rfl⟩

section Write

variable {s : State} {a : Addr} {v : Byte} {ts : List Transaction} (hs : Awaits s (.write a v :: ts))
include hs

/-- The step of a WRITE runs its mnemonic; where that keeps the registers, the block awaits the rest. -/
theorem step_write {t : State} (he : exec (writeMnemonic a v) (s.setPending (ts.map Transaction.word)) = .next t)
    (hregs : SameRegisters (s.setPending (ts.map Transaction.word)) t) :
    step s = .next t ∧ Awaits t ts ∧ t.cfg = s.cfg := by
  obtain ⟨hf, hp⟩ := hs
  obtain ⟨hcfg, -, -, -, -, -, -, hfault, hpending⟩ := hregs
  exact ⟨(step_presented hf hp (decode_encodeWrite a v)).trans he, ⟨hfault.trans hf, hpending⟩, hcfg⟩

theorem step_write_stores {r : Region} {i : Nat} (ha : AccessesByte (s.setPending (ts.map Transaction.word)) a r i) :
    ∃ t, (step s = .next t ∧ Awaits t ts ∧ t.cfg = s.cfg) ∧
      ∀ r' j, t.memRead r' j = if r' = r ∧ j = i then v else s.memRead r' j := by
  obtain ⟨hwrite, -⟩ := ha
  obtain ⟨-, hbyte, hregs, hothers⟩ := stores_memWrite (s.setPending (ts.map Transaction.word)) r i v
  refine ⟨_, step_write hs (hwrite v) hregs, fun r' j => ?_⟩
  split
  case isTrue h =>
    obtain ⟨rfl, rfl⟩ := h
    exact hbyte
  case isFalse h => exact (hothers r' j h).trans (State.setPending_memRead ..)

end Write

/-! ## SPRITE (rules R101, R105) -/

/-- The step of a WRITE to byte `i` of the object table. -/
theorem step_write_oam {s : State} {a : Addr} {v : Byte} {ts : List Transaction} {i : Nat}
    (hs : Awaits s (.write a v :: ts)) (ha : a.toNat = 0xFE00 + i) (hi : i < 160) :
    ∃ t, step s = .next t ∧ Awaits t ts ∧ ∀ j, t.memRead .oam j = if j = i then v else s.memRead .oam j := by
  have hoam : a.isOam = true := isOam_iff.2 (by omega)
  have hoff : oamOffset a = i := by unfold oamOffset; omega
  obtain ⟨t, ⟨hstep, hawaits, -⟩, hmem⟩ := step_write_stores hs (accessesByte_oam hoam)
  exact ⟨t, hstep, hawaits, fun j => by simp only [hmem, hoff, true_and]⟩

/-- Settles O60: four steps store the four bytes of entry `n`, which are no bytes of another entry. -/
theorem spriteSetsTableEntry : Obligations.SpriteSetsTableEntry := by
  intro s n y x tile attr hf hn
  have haddr : ∀ b, b < 4 → (BitVec.ofNat 16 (0xFE00 + b + 4 * n)).toNat = 0xFE00 + (4 * n + b) := fun b hb => by
    rw [BitVec.toNat_ofNat]
    omega
  obtain ⟨t1, hstep1, hs1, hmem1⟩ :=
    step_write_oam (i := 4 * n) (awaits_setPending hf (pseudoSprite n y x tile attr)) (haddr 0 (by decide)) (by omega)
  obtain ⟨t2, hstep2, hs2, hmem2⟩ := step_write_oam hs1 (haddr 1 (by decide)) (by omega)
  obtain ⟨t3, hstep3, hs3, hmem3⟩ := step_write_oam hs2 (haddr 2 (by decide)) (by omega)
  obtain ⟨t, hstep4, ⟨-, hpending⟩, hmem4⟩ := step_write_oam hs3 (haddr 3 (by decide)) (by omega)
  have hmem : ∀ j, t.memRead .oam j = if j = 4 * n + 3 then attr else if j = 4 * n + 2 then tile else
      if j = 4 * n + 1 then x else if j = 4 * n then y else s.memRead .oam j := fun j => by
    rw [hmem4, hmem3, hmem2, hmem1, State.setPending_memRead]
  refine ⟨t, ?run, ?entry, hpending, fun k hk => ?others⟩
  case run =>
    exact (run_succ core hstep1 3).trans ((run_succ core hstep2 2).trans
      ((run_succ core hstep3 1).trans (run_succ core hstep4 0)))
  case entry => simp [State.sprite, hmem]
  case others =>
    have hkeep : ∀ b, b < 4 → t.memRead .oam (4 * k + b) = s.memRead .oam (4 * k + b) := fun b hb => by
      rw [hmem, if_neg (by omega), if_neg (by omega), if_neg (by omega), if_neg (by omega)]
    have hkeep0 : t.memRead .oam (4 * k) = s.memRead .oam (4 * k) := hkeep 0 (by decide)
    simp only [State.sprite, hkeep0, hkeep 1 (by decide), hkeep 2 (by decide), hkeep 3 (by decide)]

/-! ## BGCOL (rules R101, R107, R193) -/

/-- The index byte of a color has `AUTO_INC` set and the index of the color's low byte. -/
theorem toNat_paletteIndexByte {p c : Nat} (hp : p < 8) (hc : c < 4) :
    (paletteIndexByte p c).toNat = 0x80 + (8 * p + 2 * c) := by
  rw [paletteIndexByte, BitVec.toNat_or, BitVec.toNat_ofNat, Nat.mod_eq_of_lt (by omega)]
  exact (Nat.two_pow_add_eq_or_of_lt (i := 7) (by omega) 1).symm

/-- What a palette data WRITE on `CGB` leaves, in the words of `WritesPalette`. -/
theorem writePalette_spec {ram : Region} (hram : ram ≠ .io) (k : Nat) (v : Byte) (s : State) :
    ∃ t, writePalette ram k v s = .next t ∧ t.response = .none ∧
      t.memRead ram ((s.ioByte k).toNat % 64) = v ∧ AdvancedIndex (s.ioByte k) (t.ioByte k) ∧ SameRegisters s t ∧
      ∀ r j, ¬(r = ram ∧ j = (s.ioByte k).toNat % 64) → ¬(r = .io ∧ j = k) → t.memRead r j = s.memRead r j := by
  refine ⟨_, rfl, rfl, ?byte, ?index, by simp [SameRegisters], fun r j hbyte hindex => ?others⟩
  case byte => rw [State.setResponse_memRead, memRead_setIo_ne _ (by simp [hram]), palIndex_eq, memRead_memWrite_same]
  case index => rw [AdvancedIndex, State.setResponse_ioByte, ioByte_setIo_same, toNat_palAdvance]
  case others => rw [State.setResponse_memRead, memRead_setIo_ne _ hindex, palIndex_eq, memRead_memWrite_ne _ hbyte]

/-- The step of a WRITE of background palette data, the index register holding `AUTO_INC` and index `i`. -/
theorem step_write_bgpd {s : State} {v : Byte} {ts : List Transaction} {i : Nat} (hs : Awaits s (.write 0xFF69 v :: ts))
    (hv : s.cfg.variant = .cgb) (hreg : (s.ioByte 0x68).toNat = 0x80 + i) (hi : i < 64) :
    ∃ t, (step s = .next t ∧ Awaits t ts ∧ t.cfg = s.cfg) ∧ (t.ioByte 0x68).toNat = 0x80 + (i + 1) % 64 ∧
      ∀ j, t.memRead .bgpram j = if j = i then v else s.memRead .bgpram j := by
  have hexec := exec_wrBgpd_cgb (s := s.setPending (ts.map Transaction.word)) hv v
  obtain ⟨t, he, -, hbyte, hindex, hregs, hothers⟩ :=
    writePalette_spec (ram := .bgpram) (by decide) 0x68 v (s.setPending (ts.map Transaction.word))
  have hmod : (s.ioByte 0x68).toNat % 64 = i := by omega
  rw [State.setPending_ioByte, hmod] at hbyte hothers
  refine ⟨t, step_write hs (hexec.trans he) hregs, ?index, fun j => ?bytes⟩
  case index =>
    rw [AdvancedIndex, State.setPending_ioByte, if_pos (by omega)] at hindex
    omega
  case bytes =>
    split
    case isTrue h => exact h ▸ hbyte
    case isFalse h => exact (hothers .bgpram j (by simp [h]) (by simp)).trans (State.setPending_memRead ..)

/-- Settles O59: the first step sets the index, the other two store the low and the high byte and advance it. -/
theorem bgcolSetsPaletteEntry : Obligations.BgcolSetsPaletteEntry := by
  intro s p c rgb hv hf hp hc
  obtain ⟨t1, ⟨hstep1, hs1, hcfg1⟩, hmem1⟩ := step_write_stores (awaits_setPending hf (pseudoBgcol p c rgb))
    (accessesByte_io (by decide) (by decide) (by decide) (fun _ => by decide))
  have hreg1 : t1.ioByte 0x68 = paletteIndexByte p c := (hmem1 .io 0x68).trans (if_pos ⟨rfl, by decide⟩)
  have hindex1 := (congrArg BitVec.toNat hreg1).trans (toNat_paletteIndexByte hp hc)
  have hv1 : t1.cfg.variant = .cgb := hcfg1 ▸ hv
  obtain ⟨t2, ⟨hstep2, hs2, hcfg2⟩, hindex2, hmem2⟩ := step_write_bgpd hs1 hv1 hindex1 (by omega)
  rw [Nat.mod_eq_of_lt (by omega)] at hindex2
  obtain ⟨t, ⟨hstep3, ⟨-, hpending⟩, -⟩, hindex, hmem3⟩ := step_write_bgpd hs2 (hcfg2 ▸ hv1) hindex2 (by omega)
  have hmem : ∀ j, t.memRead .bgpram j = if j = 8 * p + 2 * c + 1 then rgb.extractLsb' 8 8 else
      if j = 8 * p + 2 * c then rgb.extractLsb' 0 8 else s.memRead .bgpram j := fun j => by
    have hram : t1.memRead .bgpram j = s.memRead .bgpram j := (hmem1 .bgpram j).trans (by simp)
    rw [hmem3, hmem2, hram]
  refine ⟨t, ?run, ?entry, hindex, hpending, fun j hlo hhi => ?others⟩
  case run => exact (run_succ core hstep1 2).trans ((run_succ core hstep2 1).trans (run_succ core hstep3 0))
  case entry =>
    rw [hmem, hmem, if_pos rfl, if_neg (by omega), if_pos rfl]
    exact (BitVec.extractLsb'_append_extractLsb'_eq_extractLsb' rfl).trans BitVec.extractLsb'_eq_self
  case others => rw [hmem, if_neg hhi, if_neg hlo]

end Sys2Proof.Machine

/-!
PROOF. The statements of 40_mode_fsm.md: UPDATE moves the position as the loop of `fsm_step` does (rules R131 to R133), derives
the mode (rule R130), STAT, LY and `WIN_LINE` (rules R136, R138) and the interrupt (rule R137), whatever LCDC holds (rule R135);
and GET_MODE answers the mode's id (rule R140). First the state and the answer UPDATE leaves, element by element; the statements
cite these.
-/

namespace Sys2Proof.Machine

/-! ## What UPDATE answers and leaves (rule R139) -/

section Update

variable (s : State) (n : Nat)

/-- The interrupt flag UPDATE answers (rule R139). -/
def updateIrq : Bool :=
  lycIrq (fsmAdvance s n) || modeIrq (scanlineUpdate (fsmAdvance s n)).stat s.mode (fsmAdvance s n).mode

/-- The state after UPDATE, its answer in it. -/
def afterUpdate : State := (updated s n).setResponse (.update (fsmResult s n) (updateIrq s n))

theorem exec_update : exec (.update n) s = .next (afterUpdate s n) := rfl

@[simp] theorem afterUpdate_response : (afterUpdate s n).response = .update (fsmResult s n) (updateIrq s n) := rfl

@[simp] theorem afterUpdate_dot : (afterUpdate s n).dot = nextDot s n := by
  obtain ⟨-, hdot, -⟩ := updated_registers s n
  exact hdot

@[simp] theorem afterUpdate_line : (afterUpdate s n).line = nextLine s n := by
  obtain ⟨-, -, hline, -⟩ := updated_registers s n
  exact hline

@[simp] theorem afterUpdate_mode : (afterUpdate s n).mode = modeOf s.cfg (nextLine s n) (nextDot s n) := by
  obtain ⟨-, -, -, hmode, -⟩ := updated_registers s n
  exact hmode

@[simp] theorem afterUpdate_winLine : (afterUpdate s n).winLine =
    if lineByte (nextLine s n) = s.ly then s.winLine else if lineByte (nextLine s n) = 0 then none else s.winLine :=
  updated_winLine s n

@[simp] theorem afterUpdate_ly : (afterUpdate s n).ioByte 0x44 = lineByte (nextLine s n) :=
  (State.setResponse_ioByte ..).trans (updated_ly s n)

theorem afterUpdate_stat : (afterUpdate s n).ioByte 0x41 = statSetMode
    (if lineByte (nextLine s n) = s.ly then s.stat else statSetLycEq s.stat (lineByte (nextLine s n) == s.lyc))
    (modeOf s.cfg (nextLine s n) (nextDot s n)) :=
  (State.setResponse_ioByte ..).trans (updated_stat s n)

theorem afterUpdate_memRead {r : Region} {k : Nat} (h : ¬(r = .io ∧ (k = 0x41 ∨ k = 0x44))) :
    (afterUpdate s n).memRead r k = s.memRead r k :=
  (State.setResponse_memRead ..).trans (updated_memRead s h)

/-- The registers that are no part of the state machine. -/
theorem afterUpdate_registers : (afterUpdate s n).cfg = s.cfg ∧ (afterUpdate s n).vramBank = s.vramBank ∧
    (afterUpdate s n).syspalSel = s.syspalSel ∧ (afterUpdate s n).fault = s.fault ∧ (afterUpdate s n).pending = s.pending := by
  obtain ⟨hcfg, -, -, -, hbank, hsel, hfault, hpending⟩ := updated_registers s n
  exact ⟨hcfg, hbank, hsel, hfault, hpending⟩

/-- UPDATE ends with the mode id in bits 1:0 of STAT (rule R138). -/
theorem afterUpdate_stat_mod_four : ((afterUpdate s n).ioByte 0x41).toNat % 4 = (modeId (afterUpdate s n).mode).toNat := by
  have hid := (modeId (afterUpdate s n).mode).isLt
  rw [afterUpdate_mode] at hid ⊢
  rw [afterUpdate_stat, toNat_statSetMode]
  omega

/-- UPDATE writes no bit of STAT above the coincidence flag. -/
theorem afterUpdate_stat_getLsbD {k : Nat} (hk : 3 ≤ k) :
    ((afterUpdate s n).ioByte 0x41).getLsbD k = (s.ioByte 0x41).getLsbD k := by
  rw [afterUpdate_stat, getLsbD_statSetMode (by omega)]
  split
  case isTrue => rfl
  case isFalse => exact getLsbD_statSetLycEq (by omega)

/-- Bit 2 of STAT, the coincidence flag, is written where LY changes (rule R136). -/
theorem afterUpdate_lycEq : ((afterUpdate s n).ioByte 0x41).getLsbD 2 =
    if lineByte (nextLine s n) = s.ly then (s.ioByte 0x41).getLsbD 2 else lineByte (nextLine s n) == s.lyc := by
  rw [afterUpdate_stat, getLsbD_statSetMode (le_refl 2)]
  split
  case isTrue => rfl
  case isFalse => exact statSetLycEq_lycEq ..

end Update

/-! ## The interrupt (rules R136, R137) -/

/-- The coincidence condition of an UPDATE that takes the line to `line`, by the state before it (rule R136). -/
def CoincidenceIrq (s : State) (line : Fin 154) : Prop :=
  line.val ≠ s.ly.toNat ∧ line.val = s.lyc.toNat ∧ s.stat.getLsbD 6 = true

/-- The mode-change condition of an UPDATE that takes the mode to `m`, by the state before it (rule R137). -/
def ModeChangeIrq (s : State) (m : Mode) : Prop :=
  m ≠ s.mode ∧ ((m = .hBlank ∧ s.stat.getLsbD 3 = true) ∨ (m = .vBlank ∧ s.stat.getLsbD 4 = true) ∨
    (m = .objectSearch ∧ s.stat.getLsbD 5 = true))

theorem modeIrq_iff {stat : Byte} {old new : Mode} : modeIrq stat old new = true ↔
    new ≠ old ∧ ((new = .hBlank ∧ stat.getLsbD 3 = true) ∨ (new = .vBlank ∧ stat.getLsbD 4 = true) ∨
      (new = .objectSearch ∧ stat.getLsbD 5 = true)) := by
  rw [modeIrq, Bool.and_eq_true, decide_eq_true_iff]
  cases new <;> simp [modeIe, hblIe, vblIe, oamIe]

theorem updateIrq_iff {s : State} {n : Nat} : updateIrq s n = true ↔
    CoincidenceIrq s (nextLine s n) ∨ ModeChangeIrq s (modeOf s.cfg (nextLine s n) (nextDot s n)) := by
  have hstat : ∀ {k}, 3 ≤ k → (scanlineUpdate (fsmAdvance s n)).stat.getLsbD k = s.stat.getLsbD k :=
    getLsbD_scanlineUpdate_stat _
  rw [updateIrq, Bool.or_eq_true, lycIrq_fsmAdvance, modeIrq_iff, hstat (by decide), hstat (by decide), hstat (by decide)]
  rfl

/-- Settles O36: the flag is the OR of the two conditions. -/
theorem updateInterrupt : Obligations.UpdateInterrupt := by
  intro s n
  refine ⟨_, _, _, exec_update s n, rfl, ?_⟩
  rw [afterUpdate_line, afterUpdate_mode]
  exact updateIrq_iff

/-! ## The loop of the state machine step (rules R131 to R133) -/

/-- The loop in closed form, given a round for each boundary: the position is the remainders, and the frame completes when the
boundaries crossed exceed the lines before `frameDone`. -/
theorem fsmLoop_eq {frameDone : Nat} (hf : frameDone < 154) {fuel d line : Nat} {adv fdone : Bool} (hd : d / 456 ≤ fuel)
    (hl : line < 154) : fsmLoop frameDone fuel d line adv fdone =
      (d % 456, (line + d / 456) % 154, adv || decide (1 ≤ d / 456),
        fdone || decide ((frameDone + 153 - line) % 154 < d / 456)) := by
  induction fuel generalizing d line adv fdone with
  | zero =>
    have hstay : d < 456 := by omega
    simp [fsmLoop, Nat.div_eq_of_lt hstay, Nat.mod_eq_of_lt hstay, Nat.mod_eq_of_lt hl]
  | succ fuel ih =>
    rw [fsmLoop]
    split
    case isTrue hcross =>
      have hframe : ((line + 1) % 154 = frameDone ∨ (frameDone + 153 - (line + 1) % 154) % 154 < (d - 456) / 456) ↔
          (frameDone + 153 - line) % 154 < d / 456 := by omega
      have hdot : (d - 456) % 456 = d % 456 := by omega
      have hline : ((line + 1) % 154 + (d - 456) / 456) % 154 = (line + d / 456) % 154 := by omega
      rw [ih (by omega) (by omega), hdot, hline, Bool.or_assoc, ← Bool.decide_or, decide_eq_decide.2 hframe,
        decide_eq_true (show 1 ≤ d / 456 by omega), Bool.true_or, Bool.or_true]
    case isFalse hcross =>
      have hstay : d < 456 := Nat.lt_of_not_le hcross
      simp [Nat.div_eq_of_lt hstay, Nat.mod_eq_of_lt hstay, Nat.mod_eq_of_lt hl]

/-- Settles O32: the model's step is the loop's closed form. -/
theorem updateStepsAsLoop : Obligations.UpdateStepsAsLoop := by
  intro s n
  refine ⟨_, updateIrq s n, decide (1 ≤ linesCrossed s n), frameCompleted s n, exec_update s n, ?answer, ?loop, ?mode⟩
  case answer =>
    rw [afterUpdate_line, afterUpdate_mode]
    rfl
  case loop =>
    rw [fsmLoop_eq s.cfg.frameDoneLine.isLt (Nat.div_le_self ..) s.line.isLt, afterUpdate_dot, afterUpdate_line]
    rfl
  case mode => rw [afterUpdate_mode, afterUpdate_line, afterUpdate_dot]

/-- Settles O34: from `LINE` the first boundary into `FRAME_DONE_LINE` is number `(FRAME_DONE_LINE + 153 - LINE) % 154 + 1`. -/
theorem frameCompletedMeaning : Obligations.FrameCompletedMeaning := by
  intro s n
  refine ⟨_, _, _, exec_update s n, rfl, ?_⟩
  have hline := s.line.isLt
  have hframe := s.cfg.frameDoneLine.isLt
  have hflag : (fsmResult s n).frameCompleted = true ↔
      (s.cfg.frameDoneLine.val + 153 - s.line.val) % 154 < (s.dot.val + n) / 456 := decide_eq_true_iff
  rw [hflag]
  constructor
  · exact fun h => ⟨(s.cfg.frameDoneLine.val + 153 - s.line.val) % 154 + 1, by omega, h, by omega⟩
  · rintro ⟨j, hj, hjk, hreach⟩
    omega

/-! ## The mode and its id (rules R130, R140) -/

section ModeOf

variable {c : Config} {line : Fin 154} {dot : Fin 456}

theorem modeOf_vBlank (h : 144 ≤ line.val) : modeOf c line dot = .vBlank := if_pos h

theorem modeOf_objectSearch (hl : line.val < 144) (h : dot.val < c.oamLen) : modeOf c line dot = .objectSearch := by
  rw [modeOf, if_neg (by omega), if_pos h]

theorem modeOf_pixelTransfer (hl : line.val < 144) (h1 : c.oamLen ≤ dot.val) (h2 : dot.val < c.oamLen + c.xferLen) :
    modeOf c line dot = .pixelTransfer := by
  rw [modeOf, if_neg (by omega), if_neg (by omega), if_pos h2]

theorem modeOf_hBlank (hl : line.val < 144) (h : c.oamLen + c.xferLen ≤ dot.val) : modeOf c line dot = .hBlank := by
  rw [modeOf, if_neg (by omega), if_neg (by omega), if_neg (by omega)]

end ModeOf

theorem fsmResult_mode (s : State) (n : Nat) : (fsmResult s n).mode = modeId (afterUpdate s n).mode := by
  rw [afterUpdate_mode]
  rfl

/-- Settles O33: the mode is derived from the new position, and the id answered is the mode's. -/
theorem modeFollowsPosition : Obligations.ModeFollowsPosition := by
  intro s n
  have hid : ∀ {m}, (afterUpdate s n).mode = m → (afterUpdate s n).mode = m ∧ (fsmResult s n).mode = modeId m := fun h =>
    ⟨h, (fsmResult_mode s n).trans (congrArg modeId h)⟩
  refine ⟨_, _, _, exec_update s n, rfl, ?_⟩
  rw [afterUpdate_line, afterUpdate_dot]
  refine ⟨fun hl => hid ?_, fun hl h => hid ?_, fun hl h1 h2 => hid ?_, fun hl h => hid ?_⟩ <;> rw [afterUpdate_mode]
  · exact modeOf_vBlank hl
  · exact modeOf_objectSearch hl h
  · exact modeOf_pixelTransfer hl h1 h2
  · exact modeOf_hBlank hl h

/-- Settles O37: the id answered is that of the mode left, which UPDATE stores in STAT. -/
theorem updateWritesStatMode : Obligations.UpdateWritesStatMode := by
  intro s n
  refine ⟨_, _, _, exec_update s n, rfl, ?_, fun _ => afterUpdate_stat_getLsbD s n⟩
  rw [fsmResult_mode]
  exact afterUpdate_stat_mod_four s n

theorem exec_getMode (s : State) : exec .getMode s = .next (s.setResponse (.mode (modeId s.mode))) := rfl

/-- Settles O41: GET_MODE only answers; a new block is in ObjectSearch, and UPDATE leaves the mode's id in STAT. -/
theorem getModeAnswersId : Obligations.GetModeAnswersId := by
  refine ⟨fun s => ⟨rfl, _, _, exec_getMode s, answers_setResponse s _, ?_⟩, fun _ _ => ⟨_, exec_getMode _, rfl⟩,
    fun s n => ⟨_, _, _, exec_update s n, exec_getMode _, rfl, (afterUpdate_stat_mod_four s n).symm⟩⟩
  refine ⟨?_, ?_, ?_, ?_⟩ <;> exact congrArg modeId

/-! ## The scanline counter and the frame of UPDATE (rules R136, R139) -/

/-- Settles O35: LY, the coincidence flag and `WIN_LINE` by whether the line is LY; with the mode unchanged the interrupt is the
coincidence condition. (`scanlineUpdate` is the model's function.) -/
theorem scanlineUpdate_spec : Obligations.ScanlineUpdate := by
  intro s n
  refine ⟨_, _, _, exec_update s n, rfl, ?_⟩
  have hly : lineByte (nextLine s n) = s.ly ↔ (nextLine s n).val = (s.ioByte 0x44).toNat := lineByte_eq_iff
  rw [afterUpdate_line, afterUpdate_ly, afterUpdate_lycEq, afterUpdate_winLine, afterUpdate_mode]
  refine ⟨fun hsame => ?same, fun hdiff => ?differs, fun hmode => ?irq⟩
  case same =>
    rw [if_pos (hly.2 hsame), if_pos (hly.2 hsame)]
    exact ⟨hly.2 hsame, rfl, rfl⟩
  case differs =>
    have hzero : lineByte (nextLine s n) = 0 ↔ (nextLine s n).val = 0 := lineByte_eq_iff
    rw [if_neg (mt hly.1 hdiff), if_neg (mt hly.1 hdiff), beq_iff_eq, lineByte_eq_iff]
    exact ⟨toNat_lineByte _, Iff.rfl, if_congr hzero rfl rfl, fun hlyc hie => updateIrq_iff.2 (.inl ⟨hdiff, hlyc, hie⟩)⟩
  case irq =>
    rw [updateIrq_iff, or_iff_left fun ⟨hchange, _⟩ => hchange hmode]
    rfl

/-- Settles O38: the bytes but STAT and LY, and the registers that are no part of the state machine. -/
theorem updateFrame : Obligations.UpdateFrame := fun s n =>
  ⟨_, exec_update s n, fun _ _ => afterUpdate_memRead s n, afterUpdate_registers s n⟩

/-! ## Returning to the same position (rule R139, corner cases) -/

/-- An UPDATE that returns to a position MODE and LY agree with answers no interrupt and changes nothing but bits 1:0 of STAT. -/
theorem afterUpdate_samePosition {s : State} {n : Nat} (hmode : s.mode = modeOf s.cfg s.line s.dot) (hly : s.ly = lineByte s.line)
    (hdot : nextDot s n = s.dot) (hline : nextLine s n = s.line) :
    (afterUpdate s n).response =
        .update ⟨s.line, modeId s.mode, decide (1 ≤ linesCrossed s n), frameCompleted s n⟩ false ∧
      SameRegisters s (afterUpdate s n) ∧ SameBytesBut s (afterUpdate s n) .io 0x41 ∧
      ∀ k, 2 ≤ k → ((afterUpdate s n).ioByte 0x41).getLsbD k = (s.ioByte 0x41).getLsbD k := by
  have hsame : lineByte (nextLine s n) = s.ly := by rw [hline, hly]
  have hmode' : modeOf s.cfg (nextLine s n) (nextDot s n) = s.mode := by rw [hline, hdot, hmode]
  have hirq : updateIrq s n = false := by
    rw [← Bool.not_eq_true, updateIrq_iff]
    rintro (⟨hchange, -⟩ | ⟨hchange, -⟩)
    · exact hchange (lineByte_eq_iff.1 hsame)
    · exact hchange hmode'
  refine ⟨?answer, ?registers, fun r j hne => ?bytes, fun k hk => ?stat⟩
  case answer => rw [afterUpdate_response, fsmResult, hirq, hmode', hline]
  case registers =>
    obtain ⟨hcfg, hbank, hsel, hfault, hpending⟩ := afterUpdate_registers s n
    refine ⟨hcfg, ?_, ?_, ?_, hbank, ?_, hsel, hfault, hpending⟩
    · rw [afterUpdate_dot, hdot]
    · rw [afterUpdate_line, hline]
    · rw [afterUpdate_mode, hmode']
    · rw [afterUpdate_winLine, if_pos hsame]
  case bytes =>
    by_cases hlyByte : r = .io ∧ j = 0x44
    · obtain ⟨rfl, rfl⟩ := hlyByte
      exact (afterUpdate_ly s n).trans hsame
    · exact afterUpdate_memRead s n (by tauto)
  case stat =>
    rw [afterUpdate_stat, getLsbD_statSetMode hk, if_pos hsame]
    rfl

/-- Settles O39: the closed form's remainders; no cycles and whole frames return to the same position. -/
theorem updateCornerCases : Obligations.UpdateCornerCases := by
  refine ⟨fun s n => ⟨_, _, _, exec_update s n, rfl, ?advanced, ?dot, ?line⟩, fun s hmode hly => ⟨?noCycles, fun k hk => ?frames⟩⟩
  case advanced =>
    have hflag : (fsmResult s n).lineAdvanced = true ↔ 1 ≤ (s.dot.val + n) / 456 := decide_eq_true_iff
    rw [hflag]
    omega
  case dot => exact congrArg Fin.val (afterUpdate_dot s n)
  case line => exact congrArg Fin.val (afterUpdate_line s n)
  case noCycles =>
    have hcrossed : linesCrossed s 0 = 0 := Nat.div_eq_of_lt s.dot.isLt
    have hdot : nextDot s 0 = s.dot := Fin.ext (Nat.mod_eq_of_lt s.dot.isLt)
    have hline : nextLine s 0 = s.line := by
      rw [nextLine, hcrossed]
      exact Fin.ext (Nat.mod_eq_of_lt s.line.isLt)
    obtain ⟨hanswer, hregs, hbytes, hstat⟩ := afterUpdate_samePosition hmode hly hdot hline
    refine ⟨_, exec_update s 0, ?_, hregs, hbytes, hstat⟩
    rw [hanswer, frameCompleted, hcrossed]
    rfl
  case frames =>
    have hd := s.dot.isLt
    have hl := s.line.isLt
    have hcrossed : linesCrossed s (k * 70224) = k * 154 := by
      unfold linesCrossed
      omega
    have hdot : nextDot s (k * 70224) = s.dot := by
      apply Fin.ext
      simp only [nextDot, Fin.val_ofNat]
      omega
    have hline : nextLine s (k * 70224) = s.line := by
      apply Fin.ext
      simp only [nextLine, hcrossed, Fin.val_ofNat]
      omega
    obtain ⟨hanswer, hregs, hbytes, hstat⟩ := afterUpdate_samePosition hmode hly hdot hline
    refine ⟨_, frameCompleted s (k * 70224), exec_update s _, ?_, hregs, hbytes .io 0x44 (by decide), hstat 2 (le_refl 2)⟩
    rw [hanswer, hcrossed, decide_eq_true (by omega)]

/-! ## The state machine and LCDC (rule R135) -/

/-- What UPDATE computes from is the same in two states: the configuration, the position, the mode, the window's marker, STAT, LY
and LYC. -/
structure SameUpdateInputs (s u : State) : Prop where
  cfg : u.cfg = s.cfg
  dot : u.dot = s.dot
  line : u.line = s.line
  mode : u.mode = s.mode
  winLine : u.winLine = s.winLine
  stat : u.stat = s.stat
  ly : u.ly = s.ly
  lyc : u.lyc = s.lyc

namespace SameUpdateInputs

variable {s u : State} (h : SameUpdateInputs s u) (n : Nat)
include h

theorem linesCrossed_eq : linesCrossed u n = linesCrossed s n := by rw [linesCrossed, linesCrossed, h.dot]

theorem nextDot_eq : nextDot u n = nextDot s n := by rw [nextDot, nextDot, h.dot]

theorem nextLine_eq : nextLine u n = nextLine s n := by rw [nextLine, nextLine, h.line, h.linesCrossed_eq]

theorem fsmResult_eq : fsmResult u n = fsmResult s n := by
  simp only [fsmResult, frameCompleted, h.nextLine_eq, h.nextDot_eq, h.linesCrossed_eq, h.cfg, h.line]

theorem updateIrq_eq : updateIrq u n = updateIrq s n := by
  rw [Bool.eq_iff_iff, updateIrq_iff, updateIrq_iff]
  simp only [CoincidenceIrq, ModeChangeIrq, h.nextLine_eq, h.nextDot_eq, h.cfg, h.mode, h.stat, h.ly, h.lyc]

theorem afterUpdate_stat_eq : (afterUpdate u n).ioByte 0x41 = (afterUpdate s n).ioByte 0x41 := by
  rw [afterUpdate_stat, afterUpdate_stat, h.nextLine_eq, h.nextDot_eq, h.cfg, h.stat, h.ly, h.lyc]

theorem afterUpdate_winLine_eq : (afterUpdate u n).winLine = (afterUpdate s n).winLine := by
  rw [afterUpdate_winLine, afterUpdate_winLine, h.nextLine_eq, h.winLine, h.ly]

end SameUpdateInputs

theorem sameUpdateInputs_setLcdc (s : State) (v : Byte) : SameUpdateInputs s (s.setIo 0x40 v) := by
  constructor <;> simp [State.stat, State.ly, State.lyc, ioByte_setIo_ne]

/-- Settles O40: LCDC is none of UPDATE's inputs, and UPDATE keeps every byte but STAT and LY. -/
theorem stateMachineIgnoresLcdc : Obligations.StateMachineIgnoresLcdc := by
  intro s v n
  have h := sameUpdateInputs_setLcdc s v
  refine ⟨_, _, exec_update s n, exec_update _ n, ?answer, ?dot, ?line, ?mode, h.afterUpdate_winLine_eq n, fun r j hne => ?bytes⟩
  case answer => rw [afterUpdate_response, afterUpdate_response, h.fsmResult_eq, h.updateIrq_eq]
  case dot => rw [afterUpdate_dot, afterUpdate_dot, h.nextDot_eq]
  case line => rw [afterUpdate_line, afterUpdate_line, h.nextLine_eq]
  case mode => rw [afterUpdate_mode, afterUpdate_mode, h.nextLine_eq, h.nextDot_eq, h.cfg]
  case bytes =>
    by_cases hown : r = .io ∧ (j = 0x41 ∨ j = 0x44)
    · obtain ⟨rfl, rfl | rfl⟩ := hown
      · exact h.afterUpdate_stat_eq n
      · rw [ioByte_eq_memRead, ioByte_eq_memRead, afterUpdate_ly, afterUpdate_ly, h.nextLine_eq]
    · rw [afterUpdate_memRead _ _ hown, afterUpdate_memRead _ _ hown, memRead_setIo_ne _ hne]

end Sys2Proof.Machine

/-!
PROOF. The statements of 41_bus_access.md: what every bus transaction answers and leaves (rules R150, R151), the VRAM mnemonics and
the object table (rules R160 to R165), the registers (rules R166 to R197) and the plain I/O bytes (rules R198, R199). First that a
READ or WRITE of a byte is what its row says; then what the bus transactions have in common.
-/

namespace Sys2Proof

/-- A READ has the transaction of a READ, and so its opcode (30_encoding.md rule R92). -/
theorem Instr.transaction_of_isRead {i : Instr} (h : i.isRead = true) : ∃ a bov, i.transaction = .read a bov := by
  cases i <;> simp_all [Instr.isRead, Instr.transaction]

/-- A WRITE has the transaction of a WRITE. -/
theorem Instr.transaction_of_isWrite {i : Instr} (h : i.isWrite = true) : ∃ a v, i.transaction = .write a v := by
  cases i <;> simp_all [Instr.isWrite, Instr.transaction]

theorem opcode_of_isRead {i : Instr} (h : i.isRead = true) : (encode i).toNat / 2 ^ 28 = 1 := by
  obtain ⟨a, bov, ht⟩ := Instr.transaction_of_isRead h
  have ha := a.isLt
  have hb := (encodeBov bov).isLt
  rw [encode, ht, Transaction.word, toNat_encodeRead]
  omega

theorem opcode_of_isWrite {i : Instr} (h : i.isWrite = true) : (encode i).toNat / 2 ^ 28 = 2 := by
  obtain ⟨a, v, ht⟩ := Instr.transaction_of_isWrite h
  have ha := a.isLt
  have hv := v.isLt
  rw [encode, ht, Transaction.word, toNat_encodeWrite]
  omega

end Sys2Proof

namespace Sys2Proof.Machine

open Sys2Proof.Laws

/-! ## The common READ and WRITE -/

theorem readByte_answers (r : Region) (k : Nat) (s : State) :
    ∃ t, readByte r k s = .next t ∧ Answers s t (.byte (s.memRead r k)) :=
  ⟨_, readByte_eq s r k, answers_setResponse s _⟩

theorem writeByte_stores (r : Region) (k : Nat) (v : Byte) (s : State) :
    ∃ t, writeByte r k v s = .next t ∧ Stores s t r k v :=
  ⟨_, writeByte_eq s r k v, stores_memWrite s r k v⟩

/-! ## Palette data (rules R192, R193, R196, R197) -/

/-- What a palette data READ on `CGB` leaves, in the words of `ReadsPalette`. -/
theorem readPalette_spec (ram : Region) (k : Nat) (s : State) :
    ∃ t, readPalette ram k s = .next t ∧ t.response = .byte (s.memRead ram ((s.ioByte k).toNat % 64)) ∧
      AdvancedIndex (s.ioByte k) (t.ioByte k) ∧ SameRegisters s t ∧ SameBytesBut s t .io k := by
  refine ⟨_, rfl, ?answer, ?index, by simp [SameRegisters], fun r j hne => ?others⟩
  case answer => rw [State.setResponse_response, palIndex_eq]
  case index => rw [AdvancedIndex, State.setResponse_ioByte, ioByte_setIo_same, toNat_palAdvance]
  case others => rw [State.setResponse_memRead, memRead_setIo_ne s hne]

/-- Settles O24: on `CGB` the accesses are the palette's READ and WRITE, on `DMG` those of a byte of `IO`. -/
theorem paletteData : Obligations.PaletteData := by
  refine ⟨⟨?rdBgpd, ?rdObpd⟩, ⟨?wrBgpd, ?wrObpd⟩, fun s bov v hv => ?dmg⟩
  case rdBgpd =>
    intro bov s hv
    rw [exec_rdBgpd_cgb hv]
    exact ⟨(TableRow.rdBgpd bov rfl).1, readPalette_spec .bgpram 0x68 s⟩
  case rdObpd =>
    intro bov s hv
    rw [exec_rdObpd_cgb hv]
    exact ⟨(TableRow.rdObpd bov rfl).1, readPalette_spec .obpram 0x6A s⟩
  case wrBgpd =>
    intro v s hv
    rw [exec_wrBgpd_cgb hv]
    exact ⟨(TableRow.wrBgpd v rfl).1, writePalette_spec (by decide) 0x68 v s⟩
  case wrObpd =>
    intro v s hv
    rw [exec_wrObpd_cgb hv]
    exact ⟨(TableRow.wrObpd v rfl).1, writePalette_spec (by decide) 0x6A v s⟩
  case dmg =>
    rw [exec_rdBgpd_dmg hv, exec_rdObpd_dmg hv, exec_wrBgpd_dmg hv, exec_wrObpd_dmg hv]
    exact ⟨readByte_answers .io 0x69 s, readByte_answers .io 0x6B s, writeByte_stores .io 0x69 v s,
      writeByte_stores .io 0x6B v s⟩

/-! ## What every bus transaction does (rules R150, R151) -/

/-- A bus transaction is none of the commands that move the position or draw. -/
theorem bus_not_command {i : Instr} (h : i.isRead = true ∨ i.isWrite = true) :
    (∀ n, i ≠ .update n) ∧ i ≠ .renderScanline := by
  constructor
  · rintro n rfl
    simp [Instr.isRead, Instr.isWrite] at h
  · rintro rfl
    simp [Instr.isRead, Instr.isWrite] at h

/-- LY and the status flags of STAT, LYC_EQ and MODE, are the same. -/
def SameLyAndFlags (s t : State) : Prop :=
  t.ioByte 0x44 = s.ioByte 0x44 ∧ ∀ k, k < 3 → (t.ioByte 0x41).getLsbD k = (s.ioByte 0x41).getLsbD k

theorem SameLyAndFlags.trans {s t u : State} (h : SameLyAndFlags s t) (h' : SameLyAndFlags t u) : SameLyAndFlags s u :=
  ⟨h'.1.trans h.1, fun k hk => (h'.2 k hk).trans (h.2 k hk)⟩

theorem sameLyAndFlags_setResponse (s : State) (x : Response) : SameLyAndFlags s (s.setResponse x) := by
  simp [SameLyAndFlags]

/-- A byte that a bus WRITE can store is not LY, and a STAT it stores has the flags merged in. -/
theorem Storable.sameLyAndFlags {s : State} {r : Region} {k : Nat} {v : Byte} (h : Storable s r k v) :
    SameLyAndFlags s (s.memWrite r k v) := by
  refine ⟨ioByte_memWrite_ne s fun ⟨hr, hk⟩ => h.notLy hr hk, fun j hj => ?_⟩
  by_cases hstat : r = .io ∧ k = 0x41
  · obtain ⟨rfl, rfl⟩ := hstat
    obtain ⟨w, rfl⟩ := h.stat rfl rfl
    rw [← State.setIo, ioByte_setIo_same, getLsbD_statBusWrite, if_pos hj]
    rfl
  · rw [ioByte_memWrite_ne s hstat]

/-- Only UPDATE writes LY or a status flag. -/
theorem Effect.sameLyAndFlags {s t : State} {i : Instr} (h : Effect s i t) (hi : ∀ n, i ≠ .update n) :
    SameLyAndFlags s t := by
  cases h with
  | update n resp e => exact absurd e (hi n)
  | store r k v hs => exact hs.sameLyAndFlags.trans (sameLyAndFlags_setResponse _ _)
  | paletteRead k resp _ hk => exact (storable_palette_index hk).sameLyAndFlags.trans (sameLyAndFlags_setResponse _ _)
  | paletteWrite ram k v hv hram hk =>
    exact ((storable_palette_ram hv hram _).sameLyAndFlags.trans (storable_palette_index hk).sameLyAndFlags).trans
      (sameLyAndFlags_setResponse _ _)
  | _ => simp [SameLyAndFlags]

/-- A READ that is not the contract violation answers a byte and leaves `FAULT`. -/
theorem exec_read_answers {s : State} {i : Instr} (hr : i.isRead = true) (hn : ∀ a, ¬Violates s i a) :
    ∃ t, exec i s = .next t ∧ (∃ v, t.response = .byte v) ∧ t.fault = s.fault := by
  have palette : ∀ ram k, ∃ t, readPalette ram k s = .next t ∧ (∃ v, t.response = .byte v) ∧ t.fault = s.fault :=
    fun ram k => ⟨_, rfl, ⟨_, rfl⟩, by simp⟩
  rcases exec_read_of_not_violates hr hn with ⟨v, he⟩ | ⟨-, -, he⟩ | ⟨-, -, he⟩
  · exact ⟨_, he, ⟨v, rfl⟩, rfl⟩
  · exact he ▸ palette .bgpram 0x68
  · exact he ▸ palette .obpram 0x6A

/-- A WRITE that is not the contract violation answers nothing and leaves `FAULT`. -/
theorem exec_write_answers {s : State} {i : Instr} (hw : i.isWrite = true) (hn : ∀ a, ¬Violates s i a) :
    ∃ t, exec i s = .next t ∧ t.response = .none ∧ t.fault = s.fault := by
  have byte : ∀ r k v, ∃ t, writeByte r k v s = .next t ∧ t.response = .none ∧ t.fault = s.fault :=
    fun r k v => ⟨_, rfl, rfl, by simp⟩
  have palette : ∀ ram k v, ∃ t, writePalette ram k v s = .next t ∧ t.response = .none ∧ t.fault = s.fault :=
    fun ram k v => ⟨_, rfl, rfl, by simp⟩
  cases i with
  | wrTile a v | wrMap a v =>
    have hb : ¬(s.cfg.variant = .dmg ∧ effBank s none = .bank1) := fun ⟨hv, hb⟩ =>
      hn a ⟨hv, congrArg (fun b => some (a, b)) hb⟩
    simp only [exec_wrTile, exec_wrMap, withVram_allowed hb]
    exact byte _ _ v
  | wrVbk v =>
    cases hv : s.cfg.variant with
    | dmg => exact exec_wrVbk_dmg hv v ▸ byte .io 0x4F v
    | cgb => exact ⟨_, exec_wrVbk_cgb hv v, rfl, rfl⟩
  | wrBgpd v =>
    cases hv : s.cfg.variant with
    | dmg => exact exec_wrBgpd_dmg hv v ▸ byte .io 0x69 v
    | cgb => exact exec_wrBgpd_cgb hv v ▸ palette .bgpram 0x68 v
  | wrObpd v =>
    cases hv : s.cfg.variant with
    | dmg => exact exec_wrObpd_dmg hv v ▸ byte .io 0x6B v
    | cgb => exact exec_wrObpd_cgb hv v ▸ palette .obpram 0x6A v
  | wrLy _ | wrUnmapped _ _ => exact ⟨_, rfl, rfl, rfl⟩
  | wrOam _ _ | wrLcdc _ | wrStat _ | wrScy _ | wrScx _ | wrLyc _ | wrBgp _ | wrObp0 _ | wrObp1 _ | wrWy _ | wrWx _ | wrBgpi _
  | wrObpi _ | wrIo _ _ => exact byte _ _ _
  | _ => cases hw -- no WRITE

/-- No READ of a named register looks at its bank override. -/
theorem exec_namedRow_override {row : NamedRow} (h : row ∈ namedRows) (bov : BankOverride) (s : State) :
    exec (row.2.1 bov) s = exec (row.2.1 none) s := by
  simp only [namedRows, lcdRows, colorRows, List.cons_append, List.nil_append, List.mem_cons, List.not_mem_nil, or_false] at h
  rcases h with rfl | rfl | rfl | rfl | rfl | rfl | rfl | rfl | rfl | rfl | rfl | rfl | rfl | rfl | rfl | rfl <;> rfl

/-- Outside VRAM no READ looks at its bank override. -/
theorem exec_readMnemonic_override {a : Addr} (h : ¬(0x8000 ≤ a.toNat ∧ a.toNat ≤ 0x9FFF)) (bov : BankOverride) (s : State) :
    exec (readMnemonic a bov) s = exec (readMnemonic a none) s := by
  have htile : ¬a.isTile = true := by rw [isTile_iff]; omega
  have hmap : ¬a.isMap = true := by rw [isMap_iff]; omega
  cases hf : findRow namedRows a with
  | some row =>
    simp only [readMnemonic, hf]
    exact exec_namedRow_override (findRow_some hf).1 bov s
  | none =>
    simp only [readMnemonic, hf, htile, hmap, Bool.false_eq_true, if_false]
    split_ifs <;> rfl

/-- Settles O27: a bus transaction has a next state; its answer is the violation's or its kind's, and what it leaves is what its
effect leaves, being no command. -/
theorem busTransactionsLeaveDisplayState : Obligations.BusTransactionsLeaveDisplayState := by
  refine ⟨fun i s hw hi => ?_, fun a bov s ha => exec_readMnemonic_override ha bov s⟩
  obtain ⟨t, ht, -⟩ := exec_bus_movedAlong s.dot s.line s.mode hi s
  have he := exec_effect hw ht
  obtain ⟨hupdate, hrender⟩ := bus_not_command hi
  obtain ⟨hdot, hline, hmode⟩ := he.position_eq hupdate
  refine ⟨opcode_of_isRead, opcode_of_isWrite, t, ht, fun hwrite => ?write, fun hread hn => ?read, hdot, hline, hmode,
    (he.sameLyAndFlags hupdate).1, he.winLine_eq hrender hupdate, he.frame_eq hrender⟩
  case write =>
    by_cases hv : ∃ a, Violates s i a
    · obtain ⟨a, hv⟩ := hv
      cases (exec_of_violates hv).symm.trans ht
      rfl
    · obtain ⟨u, hu, hresp, -⟩ := exec_write_answers hwrite (not_exists.1 hv)
      cases hu.symm.trans ht
      exact hresp
  case read =>
    obtain ⟨u, hu, hresp, -⟩ := exec_read_answers hread hn
    cases hu.symm.trans ht
    exact hresp

/-- Settles O28: the flags are kept by every effect but UPDATE's, and `FAULT` by every READ and WRITE but the violation. -/
theorem busTransactionsKeepFlags : Obligations.BusTransactionsKeepFlags := by
  intro i s t hw hi ht
  refine ⟨((exec_effect hw ht).sameLyAndFlags (bus_not_command hi).1).2, fun hn => ?kept, fun a hv => ?violation⟩
  case kept =>
    rcases hi with hread | hwrite
    · obtain ⟨u, hu, -, hfault⟩ := exec_read_answers hread hn
      cases hu.symm.trans ht
      exact hfault
    · obtain ⟨u, hu, -, hfault⟩ := exec_write_answers hwrite hn
      cases hu.symm.trans ht
      exact hfault
  case violation =>
    cases (exec_of_violates hv).symm.trans ht
    rfl

/-! ## Tile patterns, tile maps and the object table (rules R160 to R165) -/

/-- Settles O17: an access of VRAM is the violation, or the common READ or WRITE of the effective bank. -/
theorem vramReadsAndWrites : Obligations.VramReadsAndWrites := by
  refine ⟨fun s i a hv => ⟨_, exec_of_violates hv, rfl⟩, ?read, ?write⟩
  case read =>
    rintro s a bov _ rfl hb
    refine ⟨fun hlo hhi => ?tile, fun hlo hhi => ?map⟩
    case tile =>
      have hdecode := (mnemonic_of_isTile (isTile_iff.2 ⟨hlo, hhi⟩) bov 0).1
      rw [exec_rdTile, withVram_allowed hb]
      exact ⟨hdecode ▸ decode_encodeRead a bov, readByte_answers _ _ s⟩
    case map =>
      have hdecode := (mnemonic_of_isMap (isMap_iff.2 ⟨hlo, hhi⟩) bov 0).1
      rw [exec_rdMap, withVram_allowed hb]
      exact ⟨hdecode ▸ decode_encodeRead a bov, readByte_answers _ _ s⟩
  case write =>
    intro s a v hb
    refine ⟨fun hlo hhi => ?tile, fun hlo hhi => ?map⟩
    case tile =>
      have hdecode := (mnemonic_of_isTile (isTile_iff.2 ⟨hlo, hhi⟩) none v).2
      rw [exec_wrTile, withVram_allowed hb]
      exact ⟨hdecode ▸ decode_encodeWrite a v, writeByte_stores _ _ v s⟩
    case map =>
      have hdecode := (mnemonic_of_isMap (isMap_iff.2 ⟨hlo, hhi⟩) none v).2
      rw [exec_wrMap, withVram_allowed hb]
      exact ⟨hdecode ▸ decode_encodeWrite a v, writeByte_stores _ _ v s⟩

/-- Settles O18: the address is in the object table, and its accesses are the common READ and WRITE. -/
theorem oamReadsAndWrites : Obligations.OamReadsAndWrites := by
  intro s a bov v hlo hhi
  obtain ⟨hread, hwrite⟩ := mnemonic_of_isOam (isOam_iff.2 ⟨hlo, hhi⟩) bov v
  exact ⟨hread ▸ decode_encodeRead a bov, hwrite ▸ decode_encodeWrite a v, readByte_answers .oam (oamOffset a) s,
    writeByte_stores .oam (oamOffset a) v s⟩

/-! ## Registers that are bytes of `IO` (rules R166 to R187, R190, R191, R194, R195) -/

/-- A READ whose word matches the row of `IO[k]` and whose meaning is the common READ of it. -/
theorem readsRegister {mk : BankOverride → Instr} {k : Nat}
    (hrow : ∀ bov, encode (mk bov) &&& 0xF3FFFFFF#32 = BitVec.ofNat 32 (0x1000FF00 + k))
    (hexec : ∀ bov s, exec (mk bov) s = readByte .io k s) : ReadsRegister mk k :=
  fun bov s => ⟨hrow bov, hexec bov s ▸ readByte_answers .io k s⟩

/-- A WRITE whose word matches the row of `IO[k]` and whose meaning is the common WRITE of it. -/
theorem writesRegister {mk : Byte → Instr} {k : Nat}
    (hrow : ∀ v, encode (mk v) &&& 0xFF00FFFF#32 = BitVec.ofNat 32 (0x2000FF00 + k))
    (hexec : ∀ v s, exec (mk v) s = writeByte .io k v s) : WritesRegister mk k :=
  fun v s => ⟨hrow v, hexec v s ▸ writeByte_stores .io k v s⟩

/-- Settles O19: each READ is of its byte of `IO`. -/
theorem displayRegisterReads : Obligations.DisplayRegisterReads :=
  ⟨readsRegister (fun bov => (TableRow.rdLcdc bov rfl).1) fun _ _ => rfl,
    readsRegister (fun bov => (TableRow.rdStat bov rfl).1) fun _ _ => rfl,
    readsRegister (fun bov => (TableRow.rdScy bov rfl).1) fun _ _ => rfl,
    readsRegister (fun bov => (TableRow.rdScx bov rfl).1) fun _ _ => rfl,
    readsRegister (fun bov => (TableRow.rdLy bov rfl).1) fun _ _ => rfl,
    readsRegister (fun bov => (TableRow.rdLyc bov rfl).1) fun _ _ => rfl,
    readsRegister (fun bov => (TableRow.rdWy bov rfl).1) fun _ _ => rfl,
    readsRegister (fun bov => (TableRow.rdWx bov rfl).1) fun _ _ => rfl⟩

/-- Settles O20: each WRITE is of its byte of `IO`. -/
theorem displayRegisterWrites : Obligations.DisplayRegisterWrites :=
  ⟨writesRegister (fun v => (TableRow.wrLcdc v rfl).1) fun _ _ => rfl,
    writesRegister (fun v => (TableRow.wrScy v rfl).1) fun _ _ => rfl,
    writesRegister (fun v => (TableRow.wrScx v rfl).1) fun _ _ => rfl,
    writesRegister (fun v => (TableRow.wrLyc v rfl).1) fun _ _ => rfl,
    writesRegister (fun v => (TableRow.wrWy v rfl).1) fun _ _ => rfl,
    writesRegister (fun v => (TableRow.wrWx v rfl).1) fun _ _ => rfl⟩

/-- Settles O21: each READ and each WRITE is of its byte of `IO`, on either profile. -/
theorem paletteRegisters : Obligations.PaletteRegisters :=
  ⟨⟨readsRegister (fun bov => (TableRow.rdBgp bov rfl).1) fun _ _ => rfl,
      readsRegister (fun bov => (TableRow.rdObp0 bov rfl).1) fun _ _ => rfl,
      readsRegister (fun bov => (TableRow.rdObp1 bov rfl).1) fun _ _ => rfl,
      readsRegister (fun bov => (TableRow.rdBgpi bov rfl).1) fun _ _ => rfl,
      readsRegister (fun bov => (TableRow.rdObpi bov rfl).1) fun _ _ => rfl⟩,
    writesRegister (fun v => (TableRow.wrBgp v rfl).1) fun _ _ => rfl,
    writesRegister (fun v => (TableRow.wrObp0 v rfl).1) fun _ _ => rfl,
    writesRegister (fun v => (TableRow.wrObp1 v rfl).1) fun _ _ => rfl,
    writesRegister (fun v => (TableRow.wrBgpi v rfl).1) fun _ _ => rfl,
    writesRegister (fun v => (TableRow.wrObpi v rfl).1) fun _ _ => rfl⟩

/-! ## STAT, LY and VBK (rules R169, R175, R188, R189) -/

/-- Settles O22: WR_STAT stores the written byte with the flags merged in, whose bits are known one by one; WR_LY only answers. -/
theorem statAndLyWrites : Obligations.StatAndLyWrites := by
  intro s v
  obtain ⟨t, ht, hs⟩ := writeByte_stores .io 0x41 (statBusWrite s.stat v) s
  have ⟨_, hbyte, _, _⟩ := hs
  have hbit : ∀ k, (t.ioByte 0x41).getLsbD k = if k < 3 then s.stat.getLsbD k else v.getLsbD k := fun k =>
    (congrArg (BitVec.getLsbD · k) hbyte).trans (getLsbD_statBusWrite s.stat v k)
  exact ⟨(TableRow.wrStat v rfl).1, (TableRow.wrLy v rfl).1,
    ⟨t, ht, hs, fun k hk => (hbit k).trans (if_neg (by omega)), fun k hk => (hbit k).trans (if_pos hk)⟩,
    ⟨_, rfl, answers_setResponse s _⟩⟩

theorem setWidth_bankBit (b : Bank) : (bankBit b).setWidth 8 = if b = .bank1 then 1 else 0 := by
  cases b <;> rfl

theorem bankOfBit_getLsbD_zero (v : Byte) : bankOfBit (v.getLsbD 0) = if v.toNat % 2 = 1 then .bank1 else .bank0 := by
  simp [bankOfBit, BitVec.getLsbD, Nat.testBit_zero]

/-- Settles O23: on `CGB` VBK answers and selects the bank, on `DMG` it is the byte of `IO`. -/
theorem vbkSelectsBankOnCgb : Obligations.VbkSelectsBankOnCgb := by
  intro s bov v
  refine ⟨(TableRow.rdVbk bov rfl).1, (TableRow.wrVbk v rfl).1, fun hv => ?cgb, fun hv => ?dmg⟩
  case cgb =>
    rw [exec_rdVbk_cgb hv, exec_wrVbk_cgb hv, setWidth_bankBit, bankOfBit_getLsbD_zero]
    exact ⟨⟨_, rfl, answers_setResponse s _⟩, ⟨_, rfl, answers_setResponse _ _⟩⟩
  case dmg =>
    rw [exec_rdVbk_dmg hv, exec_wrVbk_dmg hv]
    exact ⟨readByte_answers .io 0x4F s, writeByte_stores .io 0x4F v s⟩

/-! ## Plain I/O bytes (rules R198, R199) -/

/-- Settles O25: the address is a plain I/O byte, and its accesses are the common READ and WRITE. -/
theorem plainIoReadsAndWrites : Obligations.PlainIoReadsAndWrites := by
  intro s a bov v hlo hhi hn
  have hplain : a.isPlainIo = true := isPlainIo_iff.2 ⟨isIo_iff.2 ⟨hlo, hhi⟩, by simp [hn]⟩
  obtain ⟨hread, hwrite⟩ := mnemonic_of_isPlainIo hplain bov v
  exact ⟨hread ▸ decode_encodeRead a bov, hwrite ▸ decode_encodeWrite a v, readByte_answers .io (ioOffset a) s,
    writeByte_stores .io (ioOffset a) v s⟩

end Sys2Proof.Machine

/-!
PROOF. The statements of 42_background.md: the pixel of a map table (rule R232), what a render of a visible line leaves, the row of the
background and window layers (rules R230 to R240), and what a rendered row depends on (rule R242). `underPixel` is first identified
with `LineBuffers`; without sprites a row is its color, and each column is then the background's or the window's.
-/

namespace Sys2Proof.Machine

/-! ## The pixel of a map table (rule R232; 30_encoding.md rules R103, R104) -/

theorem metaPal_eq_mod (cell : Byte) : metaPal cell = cell.toNat % 8 := by
  simp [metaPal]

/-- On `CGB` the metadata byte gives the flips, the bank, the palette and the priority bit. -/
theorem layerPixel_cgb {s : State} (hv : s.cfg.variant = .cgb) {m : Bool} {px py : Nat} {cell : Byte} {ci : BitVec 2}
    (hcell : cell = s.memRead (.map .bank1) (cellOffset m px py))
    (hci : ci = tilePixel s (metaBank cell) (bgTile s (s.memRead (.map .bank0) (cellOffset m px py)))
      (flip7 (metaYFlip cell) (py % 8)) (flip7 (metaXFlip cell) (px % 8))) :
    layerPixel s m px py = ⟨ci, cgbColor s .bgpram (cell.toNat % 8) ci, metaPrio cell⟩ := by
  subst hcell hci
  simp only [layerPixel, hv, metaPal_eq_mod]

/-- On `DMG` the pixel is of bank 0, through BGP, without priority. -/
theorem layerPixel_dmg {s : State} (hv : s.cfg.variant = .dmg) {m : Bool} {px py : Nat} {ci : BitVec 2}
    (hci : ci = tilePixel s .bank0 (bgTile s (s.memRead (.map .bank0) (cellOffset m px py))) (py % 8) (px % 8)) :
    layerPixel s m px py = ⟨ci, dmgColor s (s.ioByte 0x47) ci, false⟩ := by
  subst hci
  simp only [layerPixel, hv]

section BgTile

variable {s : State} {idx : Byte}

theorem bgTile_unsigned (h : s.tileSel = true) : bgTile s idx = idx.toNat := if_pos h

theorem bgTile_signed (h : s.tileSel = false) : bgTile s idx = (256 + idx.toInt).toNat := if_neg (by simp [h])

theorem bgTile_signed_nonneg (h : s.tileSel = false) (hi : idx.toNat < 128) : bgTile s idx = 256 + idx.toNat := by
  have hint : idx.toInt = idx.toNat := BitVec.toInt_eq_toNat_of_lt (by omega)
  rw [bgTile_signed h, hint]
  omega

theorem bgTile_signed_neg (h : s.tileSel = false) (hi : 128 ≤ idx.toNat) : bgTile s idx = idx.toNat := by
  have hint : idx.toInt = idx.toNat - 256 := by rw [BitVec.toInt_eq_toNat_cond, if_neg (by omega)]; norm_num
  rw [bgTile_signed h, hint]
  omega

end BgTile

/-- Settles O51: each profile's equation of `layerPixel`, and the tile number by `TILE_SEL` and the sign of the index byte. -/
theorem layerPixelLookup : Obligations.LayerPixelLookup := by
  refine ⟨fun s m px py off cell ci _ _ hoff hcell => ?pixel, fun s idx => ?tile⟩
  case pixel =>
    subst hoff
    exact ⟨fun hv hci => layerPixel_cgb hv hcell hci, fun hv hci => layerPixel_dmg hv hci⟩
  case tile => exact ⟨bgTile_unsigned, bgTile_signed_nonneg, bgTile_signed_neg, bgTile_lt s idx⟩

/-! ## What a render of a visible line leaves -/

/-- RENDER_SCANLINE on a visible line completes, with every pixel of the row composed and `WIN_LINE` advanced. -/
theorem renderScanline_visible_spec {s : State} (hy : s.ly.toNat < 144) :
    ∃ t, exec .renderScanline s = .next t ∧ t.winLine = nextWinLine s s.ly.toNat ∧
      ∀ x, x < 160 → t.pixel x s.ly.toNat = composedPixel s s.ly.toNat (layerSprites s s.ly.toNat) x := by
  refine ⟨_, execRenderScanline_visible hy, rfl, fun x hx => ?_⟩
  rw [pixel_setResponse, pixel_setWinLine, pixel_composedRow s hx]

/-- With the sprites off nothing is drawn over the line buffers. -/
theorem composedPixel_of_objEn_false {s : State} (h : s.objEn = false) (y x : Nat) :
    composedPixel s y (layerSprites s y) x = (underPixel s y x).color := by
  simp [composedPixel, shownSprite, layerSprites, h]

/-! ## The line buffers (rules R230, R234, R235, R238) -/

section LineBuffers

variable {s : State} {y x : Nat}

theorem bgDrawn_iff : bgDrawn s = true ↔ ¬(s.cfg.variant = .dmg ∧ (s.ioByte 0x40).getLsbD 0 = false) := by
  cases hv : s.cfg.variant <;> simp [bgDrawn, State.bgEn, hv]

theorem lineBuffers_of_window (hw : ¬WindowSkipped s y) (hx : (s.ioByte 0x4B).toNat - 7 ≤ x) :
    LineBuffers s y x =
      layerPixel s ((s.ioByte 0x40).getLsbD 6) (x - ((s.ioByte 0x4B).toNat - 7)) (InternalLine s y % 256) :=
  if_pos ⟨hw, hx⟩

/-- Outside the window the line buffers hold the background's color. -/
theorem lineBuffers_color_of_background (h : WindowSkipped s y ∨ x < (s.ioByte 0x4B).toNat - 7) :
    (LineBuffers s y x).color = BackgroundColor s y x := by
  have hwin : ¬(¬WindowSkipped s y ∧ (s.ioByte 0x4B).toNat - 7 ≤ x) := fun ⟨hw, hx⟩ => h.elim hw (Nat.not_lt_of_le hx)
  rw [LineBuffers, if_neg hwin, BackgroundColor, apply_ite LayerPixel.color]

end LineBuffers

/-- The model's line buffers are those of the spec's layers. -/
theorem underPixel_eq_lineBuffers (s : State) (y x : Nat) : underPixel s y x = LineBuffers s y x := by
  have hwin : (windowDrawn s y && decide (s.wx0 ≤ x)) = true ↔ ¬WindowSkipped s y ∧ (s.ioByte 0x4B).toNat - 7 ≤ x := by
    rw [Bool.and_eq_true, decide_eq_true_eq, not_windowSkipped_iff]
    rfl
  have hwinPixel : winPixel s y x = layerPixel s ((s.ioByte 0x40).getLsbD 6) (x - ((s.ioByte 0x4B).toNat - 7))
      (InternalLine s y % 256) := congrArg (fun n => layerPixel s s.winMap (x - s.wx0) (n % 256)) (winY_eq_internalLine s y)
  have hbackground : (if bgDrawn s then bgPixel s y x else LayerPixel.blank) =
      if s.cfg.variant = .dmg ∧ (s.ioByte 0x40).getLsbD 0 = false then LayerPixel.blank else bgPixel s y x := by
    rw [if_congr bgDrawn_iff rfl rfl, ite_not]
  rw [underPixel, if_congr hwin hwinPixel hbackground]
  rfl

/-! ## Rows without sprites (rules R233 to R240) -/

/-- Settles O50: without sprites each pixel is the line buffers' color, the window's from its left edge on where it is not skipped,
the background's elsewhere. -/
theorem windowRow : Obligations.WindowRow := by
  rintro s y rfl hy hobj
  obtain ⟨t, ht, hwinLine, hrow⟩ := renderScanline_visible_spec hy
  have hpixel : ∀ x, x < 160 → t.pixel x s.ly.toNat = (LineBuffers s s.ly.toNat x).color := fun x hx => by
    rw [hrow x hx, composedPixel_of_objEn_false hobj, underPixel_eq_lineBuffers]
  refine ⟨t, ht, fun hskip => ?skipped, fun hdrawn => ?drawn⟩
  case skipped =>
    exact ⟨hwinLine.trans (nextWinLine_of_skipped hskip),
      fun x hx => (hpixel x hx).trans (lineBuffers_color_of_background (.inl hskip))⟩
  case drawn =>
    obtain ⟨-, -, hedge⟩ := windowDrawn_iff.1 (not_windowSkipped_iff.1 hdrawn)
    exact ⟨hwinLine.trans (nextWinLine_of_not_skipped hdrawn),
      fun x hx => (hpixel x (hx.trans hedge)).trans (lineBuffers_color_of_background (.inr hx)),
      fun x hx hx160 => (hpixel x hx160).trans (congrArg LayerPixel.color (lineBuffers_of_window hdrawn hx))⟩

/-- Settles O49: with `WIN_EN = 0` the window is skipped, so the row is the background's. -/
theorem backgroundRow : Obligations.BackgroundRow := by
  intro s y hly hy hwin hobj
  obtain ⟨t, ht, hskipped, -⟩ := windowRow s y hly hy hobj
  exact ⟨t, ht, (hskipped (.inl hwin)).2⟩

/-! ## What a rendered row depends on (rule R242; 43_sprites.md rule R268) -/

/-- Settles O58: both states render their row LY, which is the same line, and the same inputs compose the same pixels and give the
same `WIN_LINE`. -/
theorem renderDependsOnInputsOnly : Obligations.RenderDependsOnInputsOnly := by
  intro s s' h hy
  have hly : s'.ly = s.ly := h.ioByte_eq (by simp)
  obtain ⟨t, ht, hwinLine, hrow⟩ := renderScanline_visible_spec hy
  obtain ⟨t', ht', hwinLine', hrow'⟩ := renderScanline_visible_spec (s := s') (hly ▸ hy)
  rw [hly] at hwinLine' hrow'
  have hsame : ∀ x, composedPixel s' s.ly.toNat (layerSprites s' s.ly.toNat) x =
      composedPixel s s.ly.toNat (layerSprites s s.ly.toNat) x := fun x => by
    rw [h.layerSprites_eq, h.composedPixel_eq]
  refine ⟨t, t', ht, ht', ?winLine, fun x hx => ?pixel⟩
  case winLine => rw [hwinLine', hwinLine, h.nextWinLine_eq]
  case pixel => exact (hrow' x hx).trans ((hsame x).trans (hrow x hx).symm)

end Sys2Proof.Machine

/-!
PROOF. The statements of 43_sprites.md: the drawn set of a row (rules R262 to R264), the pixel of a sprite (rules R265 to R267), the
background test (rule R270), which sprite shows at a column (rules R269, R271, R272), and the two render commands (rules R275, R276).
The model's sprites are first read in terms of the object table's bytes; the drawn set is then a sorted list in which the first
sprite that shows is the one of highest priority.
-/

namespace Sys2Proof.Machine

/-! ## Sprites in terms of the object table's bytes (rules R260 to R263, R269) -/

section TableSprite

variable {s : State} {y k : Nat}

theorem spriteHeight_eq (s : State) : spriteHeight s = if (s.ioByte 0x40).getLsbD 2 then 16 else 8 := rfl

/-- The model qualifies a sprite of the table by its bytes Y and X. -/
theorem qualifies_sprite_iff : qualifies s y (s.sprite k) = true ↔ QualifiesOn s y k := by
  rw [QualifiesOn, ← spriteHeight_eq]
  simp only [qualifies, Bool.and_eq_true, decide_eq_true_eq, and_assoc]
  simp only [spriteTop, spriteLeft, State.sprite]
  omega

theorem before_sprite_iff {j : Nat} : before (s.sprite j) (s.sprite k) = true ↔ HigherPriority s j k := by
  rw [before_iff, HigherPriority, BitVec.toNat_eq]
  rfl

/-- The model's test for the shown sprite is coverage by the byte X, an opaque color, and the background test. -/
theorem showsAt_iff {x : Nat} :
    (covers s y (s.sprite k) x && passes s (s.sprite k) (underPixel s y x)) = true ↔ ShowsAt s y x k := by
  simp only [covers, spriteSpans, Bool.and_eq_true, decide_eq_true_eq, underPixel_eq_lineBuffers]
  have hleft : spriteLeft (s.sprite k) = ((s.memRead .oam (4 * k + 1)).toNat : Int) - 8 := rfl
  rw [and_assoc (c := spriteCi s y (s.sprite k) x ≠ 0#2)]
  exact and_congr_left fun _ => and_congr (by omega) (and_congr_left fun _ => by omega)

end TableSprite

/-! ## The drawn set (rules R262, R263, R264) -/

section DrawnSet

variable {s : State} {y k : Nat} {sp : Sprite}

/-- Only the 40 sprites of the table qualify, and each is the table's sprite of its own index. -/
theorem of_mem_qualifying (h : sp ∈ qualifying s y) :
    sp.index < 40 ∧ sp = s.sprite sp.index ∧ QualifiesOn s y sp.index := by
  obtain ⟨k, hk, rfl, hq⟩ := mem_qualifying.1 h
  exact ⟨hk, rfl, qualifies_sprite_iff.1 hq⟩

theorem sprite_mem_qualifying_iff : s.sprite k ∈ qualifying s y ↔ k < 40 ∧ QualifiesOn s y k :=
  ⟨fun h => ⟨(of_mem_qualifying h).1, (of_mem_qualifying h).2.2⟩,
    fun ⟨hk, hq⟩ => mem_qualifying.2 ⟨k, hk, rfl, qualifies_sprite_iff.2 hq⟩⟩

/-- Strict priority order leaves no room for a repetition. -/
theorem Prioritized.nodup {l : List Sprite} (h : Prioritized l) : l.Nodup := by
  refine List.Pairwise.imp ?_ h
  rintro a _ hab rfl
  exact before_irrefl a hab

/-- The qualifying sprites of higher priority than sprite `k` of the table. -/
def qualifyingBefore (s : State) (y k : Nat) : List Sprite := (qualifying s y).filter (fun z => before z (s.sprite k))

theorem sprite_mem_qualifyingBefore_iff {j : Nat} :
    s.sprite j ∈ qualifyingBefore s y k ↔ j < 40 ∧ QualifiesOn s y j ∧ HigherPriority s j k := by
  rw [qualifyingBefore, List.mem_filter, sprite_mem_qualifying_iff, before_sprite_iff, and_assoc]

theorem eq_sprite_of_mem_qualifyingBefore (h : sp ∈ qualifyingBefore s y k) : sp = s.sprite sp.index :=
  (of_mem_qualifying (List.mem_of_mem_filter h)).2.1

/-- Counting distinct indices of qualifying sprites of higher priority is counting those sprites: the indices of `qualifyingBefore`
are one such list, and any other maps into it without repetition. -/
theorem length_qualifyingBefore_lt_iff (n : Nat) : (qualifyingBefore s y k).length < n ↔
    ∀ l : List Nat, l.Nodup → (∀ j ∈ l, j < 40 ∧ QualifiesOn s y j ∧ HigherPriority s j k) → l.length < n := by
  have hnodup : (qualifyingBefore s y k).Nodup := (qualifying_prioritized s y).nodup.filter _
  constructor
  case mp =>
    intro hlt l hl hhigher
    have hdistinct : (l.map s.sprite).Nodup := hl.map fun _ _ e => congrArg Sprite.index e
    have hsubset : l.map s.sprite ⊆ qualifyingBefore s y k :=
      List.forall_mem_map.2 fun j hj => sprite_mem_qualifyingBefore_iff.2 (hhigher j hj)
    have hle := (hdistinct.subperm hsubset).length_le
    rw [List.length_map] at hle
    omega
  case mpr =>
    intro h
    have hlt := h ((qualifyingBefore s y k).map Sprite.index) ?distinct ?higher
    case distinct =>
      refine hnodup.map_on fun a ha b hb e => ?_
      rw [eq_sprite_of_mem_qualifyingBefore ha, eq_sprite_of_mem_qualifyingBefore hb, e]
    case higher =>
      refine List.forall_mem_map.2 fun sp hsp => ?_
      rw [← sprite_mem_qualifyingBefore_iff, ← eq_sprite_of_mem_qualifyingBefore hsp]
      exact hsp
    rwa [List.length_map] at hlt

theorem drawnSprites_sublist (s : State) (y : Nat) : (drawnSprites s y).Sublist (qualifying s y) := by
  unfold drawnSprites
  split
  · exact List.take_sublist 10 _
  · exact List.Sublist.refl _

theorem drawnSprites_prioritized (s : State) (y : Nat) : Prioritized (drawnSprites s y) :=
  (qualifying_prioritized s y).sublist (drawnSprites_sublist s y)

/-- On `CGB` every qualifying sprite of the table is drawn, on `DMG` those among the first 10. -/
theorem sprite_mem_drawnSprites_iff : s.sprite k ∈ drawnSprites s y ↔ InDrawnSet s y k := by
  rw [InDrawnSet, ← and_assoc, ← sprite_mem_qualifying_iff]
  cases hv : s.cfg.variant with
  | cgb => simp [drawnSprites, hv]
  | dmg =>
    simp only [drawnSprites, hv, mem_take_of_prioritized (qualifying_prioritized s y), forall_const]
    exact and_congr_right fun _ => length_qualifyingBefore_lt_iff 10

theorem mem_drawnSprites_iff : sp ∈ drawnSprites s y ↔ ∃ k, sp = s.sprite k ∧ InDrawnSet s y k := by
  constructor
  · intro h
    obtain ⟨-, hsp, -⟩ := of_mem_qualifying ((drawnSprites_sublist s y).subset h)
    exact ⟨sp.index, hsp, sprite_mem_drawnSprites_iff.1 (hsp ▸ h)⟩
  · rintro ⟨k, rfl, hk⟩
    exact sprite_mem_drawnSprites_iff.2 hk

end DrawnSet

/-- Settles O54: the drawn sprites are the table's that are in the drawn set, and they are part of the sorted qualifying sprites. -/
theorem drawnSpriteSet : Obligations.DrawnSpriteSet := by
  refine fun s y => ⟨fun sp => mem_drawnSprites_iff, ?order⟩
  refine (drawnSprites_prioritized s y).imp_of_mem fun {a b} ha hb hab => ?_
  obtain ⟨j, rfl, -⟩ := mem_drawnSprites_iff.1 ha
  obtain ⟨k, rfl, -⟩ := mem_drawnSprites_iff.1 hb
  exact before_sprite_iff.1 hab

/-! ## The pixel of a sprite (rules R265, R266, R267) -/

theorem attrCgbPal_eq_mod (attr : Byte) : attrCgbPal attr = attr.toNat % 8 := by
  simp [attrCgbPal]

theorem toNat_and_0xFE (v : Byte) : (v &&& 0xFE).toNat = v.toNat / 2 * 2 + 0 := by
  revert v; decide

theorem toNat_or_0x01 (v : Byte) : (v ||| 0x01).toNat = v.toNat / 2 * 2 + 1 := by
  revert v; decide

section SpritePixel

variable (s : State) (y k : Nat)

theorem spriteRow_sprite : spriteRow s y (s.sprite k) =
    if (s.memRead .oam (4 * k + 3)).getLsbD 6 then
      (if (s.ioByte 0x40).getLsbD 2 then 16 else 8) - 1 - (y + 16 - (s.memRead .oam (4 * k)).toNat)
    else y + 16 - (s.memRead .oam (4 * k)).toNat := by
  have hrow : ((y : Int) - spriteTop (s.sprite k)).toNat = y + 16 - (s.memRead .oam (4 * k)).toNat := by
    simp only [spriteTop, State.sprite]
    omega
  rw [spriteRow, hrow]
  rfl

/-- A 16-row sprite takes its upper or lower tile by the flipped row. -/
theorem spriteTile_sprite : spriteTile s y (s.sprite k) =
    if (s.ioByte 0x40).getLsbD 2 then
      (s.memRead .oam (4 * k + 2)).toNat / 2 * 2 + (if spriteRow s y (s.sprite k) < 8 then 0 else 1)
    else (s.memRead .oam (4 * k + 2)).toNat := by
  rw [spriteTile, apply_ite BitVec.toNat, toNat_and_0xFE, toNat_or_0x01, ← apply_ite (HAdd.hAdd _)]
  rfl

theorem spriteBank_sprite : spriteBank s (s.sprite k) =
    if s.cfg.variant = .cgb ∧ (s.memRead .oam (4 * k + 3)).getLsbD 3 = true then .bank1 else .bank0 := by
  cases hv : s.cfg.variant <;> simp [spriteBank, hv, attrBank, bankOfBit, State.sprite]

theorem spriteColumn_sprite (x : Nat) :
    flip7 (attrXFlip (s.sprite k).attr) ((x : Int) - spriteLeft (s.sprite k)).toNat =
      if (s.memRead .oam (4 * k + 3)).getLsbD 5 then 7 - (x + 8 - (s.memRead .oam (4 * k + 1)).toNat)
      else x + 8 - (s.memRead .oam (4 * k + 1)).toNat := by
  have hcolumn : ((x : Int) - spriteLeft (s.sprite k)).toNat = x + 8 - (s.memRead .oam (4 * k + 1)).toNat := by
    simp only [spriteLeft, State.sprite]
    omega
  rw [hcolumn]
  rfl

end SpritePixel

/-- Settles O57: the palette by the byte ATTR, and the row, tile, bank and column of the pixel each by its bytes. -/
theorem spritePixelFetch : Obligations.SpritePixelFetch := by
  refine ⟨fun s k ci => ⟨fun hv => ?cgb, fun hv => ?dmg⟩, fun s y x k r c tile _ _ _ _ hr hc htile => ?pixel⟩
  case cgb =>
    simp only [spriteColor, hv, attrCgbPal_eq_mod]
    rfl
  case dmg =>
    simp only [spriteColor, hv]
    rfl
  case pixel =>
    rw [← spriteRow_sprite] at hr
    rw [← spriteColumn_sprite] at hc
    subst hr hc
    rw [← spriteTile_sprite] at htile
    rw [spriteCi, spriteBank_sprite, htile]

/-! ## The background test (rule R270) -/

section BackgroundTest

variable {s : State} {sp : Sprite} {under : LayerPixel}

theorem passes_of_cgb_bgEn_false (hv : s.cfg.variant = .cgb) (hbg : s.bgEn = false) : passes s sp under = true :=
  if_pos ⟨hv, hbg⟩

theorem passes_of_cgb_prio (hv : s.cfg.variant = .cgb) (hbg : s.bgEn = true) (hprio : under.prio = true) :
    passes s sp under = false := by
  rw [passes, if_neg (by simp [hbg]), if_pos ⟨hv, hprio⟩]

/-- Where `CGB` does not decide by BG_EN or BG_PRIO, the sprite's bit BEHIND and the color index underneath do. -/
theorem passes_iff (h : s.cfg.variant = .dmg ∨ (s.bgEn = true ∧ under.prio = false)) :
    passes s sp under = true ↔ sp.attr.getLsbD 7 = false ∨ under.ci = 0 := by
  have hbg : ¬(s.cfg.variant = .cgb ∧ s.bgEn = false) := by
    rintro ⟨hv, hoff⟩
    simp [hv, hoff] at h
  have hprio : ¬(s.cfg.variant = .cgb ∧ under.prio = true) := by
    rintro ⟨hv, hon⟩
    simp [hv, hon] at h
  rw [passes, if_neg hbg, if_neg hprio]
  simp [attrBehind]

end BackgroundTest

/-- Settles O56: one case of the test per clause. -/
theorem backgroundTest : Obligations.BackgroundTest :=
  fun _ _ _ => ⟨passes_of_cgb_bgEn_false, passes_of_cgb_prio, passes_iff⟩

/-! ## The sprite shown at a column (rules R271, R272) -/

/-- In priority order, an entry that meets a test and has none that meets it before it is the first to meet it. -/
theorem find?_of_prioritized {l : List Sprite} {p : Sprite → Bool} {a : Sprite} (hl : Prioritized l) (ha : a ∈ l)
    (hp : p a = true) (hfirst : ∀ b ∈ l, p b = true → ¬before b a = true) : l.find? p = some a := by
  obtain ⟨b, hb⟩ := Option.isSome_iff_exists.1 (List.find?_isSome.2 ⟨a, ha, hp⟩)
  obtain ⟨hpb, l₁, l₂, rfl, hbefore⟩ := List.find?_eq_some_iff_append.1 hb
  have ha₁ : a ∉ l₁ := fun h => by simpa [hp] using hbefore a h
  rcases List.mem_cons.1 ((List.mem_append.1 ha).resolve_left ha₁) with rfl | ha₂
  · exact hb
  · obtain ⟨-, hl₂, -⟩ := List.pairwise_append.1 hl
    exact absurd (List.rel_of_pairwise_cons hl₂ ha₂) (hfirst b (by simp) hpb)

section Composed

variable {s : State} {y x k : Nat}

theorem composedPixel_of_shown {drawn : List Sprite} {sp : Sprite} (h : shownSprite s y drawn (underPixel s y x) x = some sp) :
    composedPixel s y drawn x = spriteColor s sp (spriteCi s y sp x) := by
  rw [composedPixel, h]

theorem composedPixel_of_none_shown {drawn : List Sprite} (h : shownSprite s y drawn (underPixel s y x) x = none) :
    composedPixel s y drawn x = (underPixel s y x).color := by
  rw [composedPixel, h]

/-- Where no sprite of the drawn set shows, the pixel of the line buffers stays. -/
theorem composedPixel_of_none_shows (h : ∀ k, InDrawnSet s y k → ¬ShowsAt s y x k) :
    composedPixel s y (layerSprites s y) x = (LineBuffers s y x).color := by
  rw [← underPixel_eq_lineBuffers]
  refine composedPixel_of_none_shown (List.find?_eq_none.2 fun sp hsp hshows => ?_)
  have hdrawn : sp ∈ drawnSprites s y := by
    unfold layerSprites at hsp
    split at hsp
    · exact hsp
    · exact absurd hsp List.not_mem_nil
  obtain ⟨k, rfl, hk⟩ := mem_drawnSprites_iff.1 hdrawn
  exact h k hk (showsAt_iff.1 hshows)

/-- The sprite of highest priority of those that show gives the pixel. -/
theorem composedPixel_of_highest_shows (hobj : s.objEn = true) (hk : InDrawnSet s y k) (hshows : ShowsAt s y x k)
    (hfirst : ∀ j, InDrawnSet s y j → ShowsAt s y x j → ¬HigherPriority s j k) :
    composedPixel s y (layerSprites s y) x = spriteColor s (s.sprite k) (spriteCi s y (s.sprite k) x) := by
  rw [layerSprites, if_pos hobj]
  refine composedPixel_of_shown (find?_of_prioritized (drawnSprites_prioritized s y) (sprite_mem_drawnSprites_iff.2 hk)
    (showsAt_iff.2 hshows) fun sp hsp hsp' => ?_)
  obtain ⟨j, rfl, hj⟩ := mem_drawnSprites_iff.1 hsp
  rw [before_sprite_iff]
  exact hfirst j hj (showsAt_iff.1 hsp')

end Composed

/-- Settles O55: the pixel of a visible row is the composed one, which is the line buffers' with the sprites off or where none shows,
and else that of the first sprite, in priority order, that shows. -/
theorem spritePriority : Obligations.SpritePriority := by
  refine ⟨underPixel_eq_lineBuffers, ?_⟩
  rintro s y rfl hy
  obtain ⟨t, ht, -, hrow⟩ := renderScanline_visible_spec hy
  refine ⟨t, ht, fun x hx => ⟨fun hobj => ?off, fun hnone => ?none, fun k hobj hk hshows hfirst => ?shown⟩⟩
  case off => exact (hrow x hx).trans (underPixel_eq_lineBuffers s _ x ▸ composedPixel_of_objEn_false hobj _ x)
  case none => exact (hrow x hx).trans (composedPixel_of_none_shows hnone)
  case shown => exact (hrow x hx).trans (composedPixel_of_highest_shows hobj hk hshows hfirst)

/-! ## The render commands (rules R275, R276) -/

/-- Settles O48: on a visible line the state is the one with the composed row and the marker stored, elsewhere the same. -/
theorem renderScanline : Obligations.RenderScanline := by
  intro s y hly
  obtain rfl : y = s.ly.toNat := hly
  refine ⟨rfl, fun hy => ⟨_, execRenderScanline_blanked hy, answers_setResponse s .none⟩, fun hy => ⟨_,
    execRenderScanline_visible hy, rfl, fun x hx => ?pixel, fun r j hj => ?outside, rfl, by simp [SameRegisters]⟩⟩
  case pixel => rw [pixel_setResponse, pixel_setWinLine, pixel_composedRow s hx]
  case outside =>
    rw [State.setResponse_memRead, State.setWinLine_memRead]
    refine memRead_setRow_outside s fun ⟨hr, hlo, hhi⟩ => hj ⟨hr, by omega, ?_⟩
    rw [length_composedRow] at hhi
    omega

/-- Settles O47: the frame answered is `FB`, or with `LCD_EN = 0` the memory that lists no byte. -/
theorem renderScreen : Obligations.RenderScreen := by
  refine fun s => ⟨rfl, _, _, rfl, answers_setResponse s _, fun hon j => ?on, fun hoff j => ?off⟩
  case on =>
    rw [if_pos (show s.lcdEn = true from hon)]
    rfl
  case off => rw [if_neg (show ¬s.lcdEn = true from Bool.eq_false_iff.1 hoff), Memory.read_nil]

end Sys2Proof.Machine

/-!
PROOF. The statements of 44_palette.md: SELECT_SYSPAL (rule R305), the monochrome lookup (rule R300), the color lookup (rule R302) and
its extremes (rule R306), and the default expansion (rule R303). Each bit field of a lookup is first read as a quotient and a
remainder of the number the field is cut from.
-/

namespace Sys2Proof.Machine

/-! ## Selecting a scheme (rule R305) -/

theorem exec_selectSyspal_of_lt {s : State} {c : Nat} (h : c < s.cfg.syspal.length) :
    exec (.selectSyspal c) s = .next ((s.setSyspalSel c).setResponse .none) :=
  if_neg (Nat.not_le.2 h)

theorem exec_selectSyspal_of_le {s : State} {c : Nat} (h : s.cfg.syspal.length ≤ c) :
    exec (.selectSyspal c) s = .refused (.noSuchScheme c) :=
  if_pos h

/-- Settles O42: a choice inside the table is stored and one outside it is refused. -/
theorem selectSyspal : Obligations.SelectSyspal := fun s c =>
  ⟨fun h => ⟨_, exec_selectSyspal_of_lt h, answers_setResponse (s.setSyspalSel c) .none⟩, exec_selectSyspal_of_le⟩

/-! ## The monochrome lookup (rules R300, R301; 10_state.md rule R31) -/

theorem State.scheme_of_getElem? {s : State} {scheme : Scheme} (h : s.cfg.syspal[s.syspalSel]? = some scheme) :
    s.scheme = scheme := by
  rw [State.scheme, List.getD_eq_getElem?_getD, h, Option.getD_some]

theorem toNat_paletteShade (p : Byte) (ci : BitVec 2) : (paletteShade p ci).toNat = p.toNat / 4 ^ ci.toNat % 4 := by
  rw [paletteShade, BitVec.extractLsb'_toNat, Nat.shiftRight_eq_div_pow, Nat.pow_mul]

/-- Settles O43: the field of the palette byte is the number of the shade, of which there are four. -/
theorem monochromeLookup : Obligations.MonochromeLookup := by
  intro s p ci scheme h
  rw [dmgColor, State.scheme_of_getElem? h, ← toNat_paletteShade]
  generalize paletteShade p ci = shade
  match shade with
  | 0#2 | 1#2 | 2#2 | 3#2 => rfl

/-! ## The color lookup (rules R302, R306; 20_memory.md rule R69, 30_encoding.md rule R107) -/

theorem toNat_paletteEntry (s : State) (ram : Region) (p : Nat) (ci : BitVec 2) :
    (paletteEntry s ram p ci).toNat =
      (s.memRead ram (8 * p + 2 * ci.toNat)).toNat + 256 * (s.memRead ram (8 * p + 2 * ci.toNat + 1)).toNat := by
  rw [paletteEntry, toNat_append_add]
  omega

/-- A channel of an entry expands to the entry of `CH_EXPAND` at the channel's number. -/
theorem expand5_extractLsb' (c : Config) (w : BitVec 16) (lo : Nat) :
    expand5 c (w.extractLsb' lo 5) = c.chExpand[w.toNat / 2 ^ lo % 32]'(Nat.mod_lt _ (by omega)) := by
  simp only [expand5, BitVec.extractLsb'_toNat, Nat.shiftRight_eq_div_pow, Nat.reducePow]

/-- Settles O44: each channel is the expansion of its five bits of the pair's number. -/
theorem colorLookup : Obligations.ColorLookup := by
  rintro s ram p ci w rfl
  simp only [cgbColor, entryColor, expand5_extractLsb', toNat_paletteEntry, Nat.reducePow, Nat.div_one]

/-- Settles O45: the three channels of a white entry are 31 and those of a black one 0, which every valid expansion keeps. -/
theorem colorExtremes : Obligations.ColorExtremes := by
  intro s ram p ci ⟨_, _, _, _, hblack, hwhite, _⟩
  refine ⟨fun hlo hhi => (colorLookup s ram p ci 0x7FFF (by rw [hlo, hhi]; rfl)).trans ?white,
    fun hlo hhi => (colorLookup s ram p ci 0xFFFF (by rw [hlo, hhi]; rfl)).trans ?whiteBit15,
    fun hlo hhi => (colorLookup s ram p ci 0x0000 (by rw [hlo, hhi]; rfl)).trans ?black⟩
  case white | whiteBit15 => simp only [Nat.reduceMod, Nat.reduceDiv, hwhite]
  case black => simp only [Nat.reduceMod, Nat.reduceDiv, hblack]

/-! ## The default expansion (rule R303) -/

/-- A replicated channel fits a byte, so the table's entry is the number itself. -/
theorem toNat_expand5_default (v : Variant) (c : BitVec 5) :
    (expand5 (Config.default v) c).toNat = (c.toNat <<< 3) ||| (c.toNat >>> 2) := by
  have hhigh : c.toNat <<< 3 < 2 ^ 8 := by rw [Nat.shiftLeft_eq]; omega
  have hlow : c.toNat >>> 2 < 2 ^ 8 := by rw [Nat.shiftRight_eq_div_pow]; omega
  have hentry : expand5 (Config.default v) c = BitVec.ofNat 8 ((c.toNat <<< 3) ||| (c.toNat >>> 2)) := by
    simp [expand5, Config.default, bitReplication]
  rw [hentry, BitVec.toNat_ofNat, Nat.mod_eq_of_lt (Nat.or_lt_two_pow hhigh hlow)]

/-- Settles O46: the expansion is the replicated number, which is 0 at 0 and 255 at 31. -/
theorem defaultExpansion : Obligations.DefaultExpansion := fun v c =>
  ⟨toNat_expand5_default v c, BitVec.eq_of_toNat_eq (toNat_expand5_default v 0),
    BitVec.eq_of_toNat_eq (toNat_expand5_default v 31)⟩

end Sys2Proof.Machine

/-!
PROOF. The statements of 60_exceptions.md: the fault outcome (rule R330) and the one fault reason (rule R331). A transaction of any
instruction, whether a word spells it or not, is the contract violation, another READ or WRITE, or a command.
-/

namespace Sys2Proof.Machine

/-! ## Who sets `FAULT` (rule R331) -/

/-- A READ or WRITE that is not the contract violation leaves `FAULT`. -/
theorem exec_bus_fault {s t : State} {i : Instr} (hi : i.isRead = true ∨ i.isWrite = true) (hn : ∀ a, ¬Violates s i a)
    (h : exec i s = .next t) : t.fault = s.fault := by
  rcases hi with hread | hwrite
  · obtain ⟨u, hu, -, hfault⟩ := exec_read_answers hread hn
    cases hu.symm.trans h
    exact hfault
  · obtain ⟨u, hu, -, hfault⟩ := exec_write_answers hwrite hn
    cases hu.symm.trans h
    exact hfault

/-- A command leaves `FAULT`. -/
theorem exec_command_fault {s t : State} {i : Instr} (hi : ¬(i.isRead = true ∨ i.isWrite = true)) (h : exec i s = .next t) :
    t.fault = s.fault := by
  cases i with
  | update n =>
    cases (execUpdate_eq s n).symm.trans h
    obtain ⟨-, -, -, -, -, -, hfault, -⟩ := updated_registers s n
    exact hfault
  | renderScanline =>
    rcases Nat.lt_or_ge s.ly.toNat 144 with hy | hy
    · cases (execRenderScanline_visible hy).symm.trans h
      simp
    · cases (execRenderScanline_blanked hy).symm.trans h
      rfl
  | renderScreen | getMode =>
    cases h
    rfl
  | selectSyspal c =>
    rcases Nat.lt_or_ge c s.cfg.syspal.length with hc | hc
    · cases (exec_selectSyspal_of_lt hc).symm.trans h
      rfl
    · cases (exec_selectSyspal_of_le hc).symm.trans h
  | _ => simp [Instr.isRead, Instr.isWrite] at hi -- a READ or a WRITE

/-- Settles O7: the violation records the address; every other READ and WRITE, and every command, leaves `FAULT`. -/
theorem onlyVramAccessFaults : Obligations.OnlyVramAccessFaults := by
  refine fun i s t h => ⟨fun a hv => ?violation, fun hn => ?kept⟩
  case violation =>
    cases (exec_of_violates hv).symm.trans h
    rfl
  case kept =>
    by_cases hi : i.isRead = true ∨ i.isWrite = true
    · exact exec_bus_fault hi hn h
    · exact exec_command_fault hi h

/-! ## The fault outcome (rule R330) -/

/-- A faulted block refuses every step. -/
theorem step_faulted {s : State} {f : Fault} (h : s.fault = some f) : step s = .refused (.blockFaulted f) := by
  simp only [step, fetch, h]

/-- Settles O6: the violation is the state with `FAULT` set, which answers nothing, and `fetch` refuses a faulted block. -/
theorem faultOutcome : Obligations.FaultOutcome :=
  ⟨fun s _ _ hv => ⟨_, exec_of_violates hv, answers_setResponse (s.setFault _) .none⟩, fun _ _ => step_faulted⟩

end Sys2Proof.Machine

/-!
PROOF. The statements of 70_reset_and_hazards.md: the state of a new instance (rule R360), the model's own reset state, and that a
new instance meets the invariant which every step keeps.
-/

namespace Sys2Proof.Machine

/-! ## The bytes of a new instance (rule R360) -/

section Create

variable (c : Config) (m : InitMem)

/-- STAT is the one byte of `IO` that a new instance lists. -/
theorem create_ioByte (k : Nat) : (State.create c m).ioByte k = if 0x41 = k then 0x02 else 0x00 := rfl

theorem create_ioByte_of_ne {k : Nat} (hk : k ≠ 0x41) : (State.create c m).ioByte k = 0x00 := by
  rw [create_ioByte, if_neg hk.symm]

theorem create_stat : (State.create c m).stat = 0x02 := rfl

theorem create_ly : (State.create c m).ly = 0x00 := rfl

theorem create_pixel (x y : Nat) : (State.create c m).pixel x y = Rgba.white := rfl

end Create

/-- Settles O9: `IO` lists STAT alone, `FB` lists nothing, and each other element is the one the rule names. -/
theorem resetState : Obligations.ResetState := by
  intro c m
  refine ⟨fun k hk => create_ioByte_of_ne c m hk, create_stat c m, ?registers⟩
  case registers =>
    exact ⟨rfl, rfl, rfl, rfl, rfl, create_pixel c m, rfl, rfl, rfl,
      fun _ => rfl, fun _ => rfl, fun _ => rfl, fun _ => rfl, fun _ => rfl, fun _ => rfl, fun _ => rfl⟩

/-! ## The model's own reset state (rules R7, R360, R361) -/

/-- With `INIT_MEM` all 0x00, only the frame buffer and STAT hold anything else. -/
theorem create_zero_memRead (c : Config) {r : Region} {k : Nat} (hfb : r ≠ .fb) (hstat : ¬(r = .io ∧ k = 0x41)) :
    (State.create c .zero).memRead r k = 0x00 := by
  cases r with
  | tile b | map b => cases b <;> rfl
  | oam | bgpram | obpram => rfl
  | io => exact create_ioByte_of_ne c .zero fun hk => hstat ⟨rfl, hk⟩
  | fb => exact absurd rfl hfb

theorem default_valid (v : Variant) : (Config.default v).Valid := by
  cases v <;> decide

/-- Settles O10: the reset state is by definition the new `DMG` instance, whose bytes are the zeros of `InitMem.zero`. -/
theorem resetIsDefaultInstance : Obligations.ResetIsDefaultInstance :=
  ⟨rfl, rfl, fun _ _ hfb hstat => create_zero_memRead (.default .dmg) hfb hstat, default_valid⟩

/-! ## A new instance meets the invariant (rules R34, R43, R45) -/

section CreateInv

variable {c : Config} {m : InitMem}

/-- The memories of `INIT_MEM` are canonical, `IO` lists one byte and `FB` none. -/
theorem create_memories_wf (c : Config) (hm : m.wf) (r : Region) : Memory.wf r.unlisted r.size ((State.create c m).region r) := by
  obtain ⟨htile0, htile1, hmap0, hmap1, hoam, hbgpram, hobpram⟩ := hm
  cases r with
  | tile b =>
    cases b with
    | bank0 => exact htile0
    | bank1 => exact htile1
  | map b =>
    cases b with
    | bank0 => exact hmap0
    | bank1 => exact hmap1
  | oam => exact hoam
  | bgpram => exact hbgpram
  | obpram => exact hobpram
  | io =>
    have hlisted : Memory.wf 0x00 128 [(0x41, 0x02)] := by decide
    exact hlisted
  | fb => exact ⟨.nil, fun _ h => absurd h List.not_mem_nil⟩

/-- ObjectSearch lasts at least one cycle, so a new instance is in it. -/
theorem modeOf_origin (hc : c.Valid) : modeOf c 0 0 = .objectSearch := by
  obtain ⟨hoam, -⟩ := hc
  exact modeOf_objectSearch (by decide) hoam

/-- There is a scheme 0. -/
theorem syspal_length_pos (hc : c.Valid) : 0 < c.syspal.length := by
  obtain ⟨-, -, -, -, -, -, hgray⟩ := hc
  cases hs : c.syspal with
  | nil => simp [hs] at hgray
  | cons p ps => exact Nat.succ_pos _

theorem create_inv (hc : c.Valid) (hm : m.wf) : (State.create c m).Inv where
  cfgValid := hc
  memories := create_memories_wf c hm
  modeDerived := (modeOf_origin hc).symm
  lyIsLine := create_ly c m
  statMode := by
    rw [create_stat]
    rfl
  dmgBank _ := rfl
  schemeExists := syspal_length_pos hc
  cgbUnused _ := ⟨rfl, rfl, rfl⟩

end CreateInv

/-- Settles O11: memories from `INIT_MEM`, the mode from the bound on `OAM_LEN`, the scheme from the grayscale scheme 0, and the rest
from the values rule R360 sets. -/
theorem newInstanceMeetsInv : Obligations.NewInstanceMeetsInv := fun _ _ => create_inv

end Sys2Proof.Machine
